-- ==== Sys2Proof/Word.lean ====
section
/-! DEFINITION. The widths of the ELG-440's words, addresses and numbers (spec/00_scope.md, CAPACITIES and CONVENTIONS). -/

namespace Sys2Proof

/-- A word of 32 bits at a master port or at the memory port. -/
abbrev Word := BitVec 32

/-- A byte of a frame or a response of the supervisor link. -/
abbrev Byte := BitVec 8

/-- The byte enables of an access: bit `l` enables lane `l`. -/
abbrev Lanes := BitVec 4

/-- A logical word address, as a master presents it: 0 to FFFFFH. -/
abbrev LogAddr := BitVec 20

/-- A physical word address, as the memory port presents it: 0 to 3FFFFFH. -/
abbrev PhysAddr := BitVec 22

/-- The number of a grant of a claim word, counted modulo 256 (R12). -/
abbrev Ticket := BitVec 8

/-- The value kept with a claim word. -/
abbrev Payload := BitVec 16

/-- A lease length, wait limit, running count or tick divisor, 0 to 65535. -/
abbrev Ticks := BitVec 16

/-- A master port, P0 to P3. -/
abbrev Port := Fin 4

/-- The number of a claim-table entry, 0 to 63. -/
abbrev Slot := Fin 64

end Sys2Proof
end

