-- ==== Sys2Proof/Syntax.lean ====
section
/-! DEFINITION. The commands that reach the block: one constructor of `Instr` per row of spec/opcode_table.json,
and the supervisor commands that a frame can carry. -/

namespace Sys2Proof

/-- What the supervisor does on the four wires of the link (R155, R156). `whole` is a complete selection in one event:
the complete bytes shifted in, then `extra` further bits (log 14). -/
inductive SelectionEvent where
  | select
  | clock (sdi : Bool)
  | release
  | whole (bytes : List Byte) (extra : Nat)
  deriving DecidableEq, Repr

/-- A supervisor command with the fields of its payload (R160), as bytes where a value out of range is refused FIELD.
`unknown` is a code that names no command, whose payload plays no part (R157). -/
inductive Command where
  | status
  | mapLoad (port count : Byte) (records : List Byte)
  | mapRead (port : Byte)
  | mapOpen (port : Byte)
  | fence (port revoke : Byte)
  | unfence (port : Byte)
  | quiesce
  | resume
  | claimList (first maximum : Byte)
  | claimRevoke (slot : Byte) (addr : BitVec 24) (ticket : Byte)
  | claimClear (slot : Byte)
  | logRead (maximum : Byte)
  | timeSet (divisor : Ticks)
  | unknown (code : Byte)
  deriving DecidableEq, Repr

/-- The commands, in the table's order.

* A master access presents a request at a port; the map decides what the access is (R84, log 6).
* A completion carries the bank's error signal M_ERR (R138); what it completes is the operation in flight (R143, log 7).
* A supervisor command is a good frame of that command: its sequence number and the fields of its payload (R160, log 15). -/
inductive Instr where
  | claimAttempt (p : Port) (a : LogAddr) (be : Lanes)
  | claimWordWrite (p : Port) (a : LogAddr) (be : Lanes) (d : Word)
  | viewRead (p : Port) (a : LogAddr) (be : Lanes)
  | viewWrite (p : Port) (a : LogAddr) (be : Lanes) (d : Word)
  | plainRead (p : Port) (a : LogAddr) (be : Lanes)
  | plainWrite (p : Port) (a : LogAddr) (be : Lanes) (d : Word)
  | noticeRead (p : Port) (a : LogAddr) (be : Lanes)
  | noticeControlWrite (p : Port) (a : LogAddr) (be : Lanes) (d : Word)
  | arbiterGrant
  | plainAccessCompletion (error : Bool)
  | viewReadCompletion (error : Bool)
  | grantFetchCompletion (error : Bool)
  | writeBackCompletion (error : Bool)
  | tick
  | leaseExpiry (i : Slot)
  | waitExpiry (p : Port)
  | portResetAsserted (p : Port)
  | portResetDeasserted (p : Port)
  | partReset
  | selection (e : SelectionEvent)
  | frame (bytes : List Byte)
  | status (seq : Byte)
  | mapLoad (seq port count : Byte) (records : List Byte)
  | mapRead (seq port : Byte)
  | mapOpen (seq port : Byte)
  | fence (seq port revoke : Byte)
  | unfence (seq port : Byte)
  | quiesce (seq : Byte)
  | quiesceDrainEnd
  | resume (seq : Byte)
  | claimList (seq first maximum : Byte)
  | claimRevoke (seq slot : Byte) (addr : BitVec 24) (ticket : Byte)
  | claimClear (seq slot : Byte)
  | logRead (seq maximum : Byte)
  | timeSet (seq : Byte) (divisor : Ticks)
  | unknownCommand (code seq : Byte) (payload : List Byte)
  | tbclkPeriod
  | partResetReleased
  deriving DecidableEq, Repr

end Sys2Proof
end

