-- ==== Sys2Proof/Decode.lean ====
section
/-! DEFINITION. The commands as words of the opcode table. No row of spec/opcode_table.json carries bits ("fields" is empty
in each, and there is no "fixed"), so no word spells a command. -/

namespace Sys2Proof

/-- The command that a word of `nbits` bits spells by the table's bits: none, since the table gives no row any bits. -/
def decodeTableWord (_nbits _w : Nat) : Option Instr := none

end Sys2Proof
end

