-- ==== Sys2Proof/Config.lean ====
section
/-! DEFINITION. The free values: what the spec leaves open after an event that the machine runs on from. None has a body,
so nothing can be proved of the value. The argument is `State.freeIndex`, which each use advances (log 4). -/

namespace Sys2Proof

/-- The word that memory holds after a write that completed with an error: "the memory's own matter" (R138, R108; log 4). -/
opaque Config.failedWriteWord : Nat → Word

/-- Whether the bank performed a write that part reset abandoned: the word then holds "either the value written or the
value before it" (R146, R5, R109; log 5). -/
opaque Config.abandonedWriteTaken : Nat → Bool

/-- Which of several events comes first, where the spec fixes no order: waiting requests of several ports (CONVENTIONS in
00_scope.md; log 12), the expiries of one tick (R76, R61; log 11), a completion and the queries of the next grants (R143,
R106; log 22). -/
opaque Config.order : Nat → Nat

end Sys2Proof
end

