-- ==== Sys2Proof/Machine/State.lean ====
section
/-! DEFINITION. The state of the ELG-440, block by block, and the state after part reset. A field that the spec calls present
only in certain states (R3, R45, R122, R137, R148) is carried by those constructors or is an `Option`. -/

namespace Sys2Proof.Machine

/-! ### Requests and transactions (Chapter 8) -/

/-- The direction of an access, with the data of a write (R122). -/
inductive Direction where
  | read
  | write (data : Word)
  deriving DecidableEq, Repr

/-- A request as the master presents it (section 8.1). -/
structure Request where
  direction : Direction
  logical : LogAddr
  enables : Lanes
  deriving DecidableEq, Repr

/-- Access of a PLAIN segment (R80). -/
inductive PlainAccess where
  | readOnly
  | readWrite
  deriving DecidableEq, Repr

/-- Guard of a PLAIN segment: its claim-word address, and whether reads are guarded too (R80). -/
structure Guard where
  address : PhysAddr
  readsToo : Bool
  deriving DecidableEq, Repr

/-- Claim mode of a CLAIM segment (R80). -/
inductive ClaimMode where
  | poll
  | queue
  | wait
  deriving DecidableEq, Repr

/-- What a CLAIM segment carries to the claim unit (R22). -/
structure ClaimFields where
  mode : ClaimMode
  lease : Ticks
  limit : Ticks
  deriving DecidableEq, Repr

/-- Kind of a segment that has a physical address, with the segment fields that translation hands over (R82). -/
inductive Target where
  | plain (access : PlainAccess) (guard : Option Guard)
  | claim (fields : ClaimFields)
  | view
  deriving DecidableEq, Repr

/-- What translation answers for a logical address (R79, R82, R83). -/
inductive Route where
  | memory (physical : PhysAddr) (target : Target)
  | notice
  | unmapped
  deriving DecidableEq, Repr

/-- Purpose of a transaction that outlives its acceptance (R122). -/
inductive Purpose where
  | plainRead
  | plainWrite
  | grantFetch
  | viewRead
  | waitRead
  deriving DecidableEq, Repr

/-- The transaction record (R122). It is kept from acceptance until completion, and NOTICE and refused requests never
outlive their acceptance, so it always has a physical address. -/
structure Transaction where
  request : Request
  physical : PhysAddr
  target : Target
  purpose : Purpose
  deriving DecidableEq, Repr

/-- Phase of a port, with the record of its one transaction (R122, R124). -/
inductive Phase where
  | idle
  | queued (t : Transaction)
  | inMemory (t : Transaction)
  | stalled (t : Transaction)
  deriving DecidableEq, Repr

/-- A completion returned to a master (R122): a read with status OK and its data, a write with status OK, or status FAULT,
which for a read comes with the word that drives the read data (R171). -/
inductive Reply where
  | data (w : Word)
  | written
  | readFault (w : Word)
  | writeFault
  deriving DecidableEq, Repr

/-- One port unit. `replies` is the model's record of the completions it has returned, oldest first (log 16). -/
structure PortUnit where
  phase : Phase
  fence : Bool
  resetAsserted : Bool
  presented : Option Request
  replies : List Reply
  deriving DecidableEq, Repr

/-! ### Maps (Chapter 5) -/

/-- A segment record, its fourteen bytes kept as loaded (R172). The fields of R80 are read from it in Operands.lean. -/
structure Segment where
  basePage : BitVec 16
  pageCount : BitVec 16
  baseFrame : BitVec 16
  descriptor : Word
  lease : Ticks
  limit : Ticks
  deriving DecidableEq, Repr

/-- Mode and segment list of a port (R78): OPEN mode has no list. -/
inductive PortMap where
  | openMode
  | mapped (segments : List Segment)
  deriving DecidableEq, Repr

/-! ### The claim table (Chapters 1, 3 and 4) -/

/-- What has become of a fetching port since allocation (R8). -/
inductive OrphanMark where
  | none
  | fenced
  | offline
  deriving DecidableEq, Repr

/-- A running lease (R3). -/
structure Lease where
  length : Ticks
  remaining : Ticks
  deriving DecidableEq, Repr

/-- Mode of a waiter record; `remaining` is the wait remaining, which a WAIT record with wait limit 0 does not have (R45). -/
inductive WaiterMode where
  | queue
  | wait (limit : Ticks) (remaining : Option Ticks)
  deriving DecidableEq, Repr

/-- A waiter record (R45). -/
structure Waiter where
  port : Port
  mode : WaiterMode
  lease : Ticks
  deriving DecidableEq, Repr

/-- A write-back in flight: the written ticket and the regranted mark (R3). -/
structure InFlight where
  written : Ticket
  regranted : Bool
  deriving DecidableEq, Repr

/-- A HELD entry (R3). Its write-back state is NONE or IN-FLIGHT. -/
structure HeldEntry where
  address : PhysAddr
  holder : Port
  ticket : Ticket
  payload : Payload
  lease : Option Lease
  waiters : List Waiter
  writeBack : Option InFlight
  deriving DecidableEq, Repr

/-- A RETIRING entry (R3). Its write-back state is QUEUED (here `none`) or IN-FLIGHT. -/
structure RetiringEntry where
  address : PhysAddr
  ticket : Ticket
  payload : Payload
  writeBack : Option InFlight
  deriving DecidableEq, Repr

/-- An entry of the claim table, by its state (R2, R3, R4). -/
inductive Entry where
  | free
  | fetching (address : PhysAddr) (port : Port) (mark : OrphanMark)
  | held (h : HeldEntry)
  | retiring (r : RetiringEntry)
  | quarantined (address : PhysAddr) (ticket : Ticket) (payload : Payload)
  deriving DecidableEq, Repr

/-! ### Notices (Chapter 7) -/

/-- Kind of a notice that is queued (R111). -/
inductive NoticeKind where
  | handoff
  | expired
  | revoked
  | contended
  deriving DecidableEq, Repr

/-- A notice (R111). -/
structure Notice where
  kind : NoticeKind
  other : Port
  ticketBits : BitVec 4
  address : PhysAddr
  deriving DecidableEq, Repr

/-- What the notice unit holds for one port (R110). -/
structure NoticeUnit where
  queue : List Notice
  overflow : Bool
  enable : Bool
  deriving DecidableEq, Repr

/-! ### The memory port (Chapter 9) -/

/-- A requester at the arbiter (R137). -/
inductive Requester where
  | port (p : Port)
  | writeBack
  deriving DecidableEq, Repr

/-- Purpose of a port's memory operation, with what a write carries (R137). -/
inductive PortWork where
  | plainRead
  | plainWrite (enables : Lanes) (data : Word)
  | grantFetch
  | viewRead
  deriving DecidableEq, Repr

/-- The operation record (R137). A write-back writes all four lanes. -/
inductive Operation where
  | ofPort (p : Port) (work : PortWork) (address : PhysAddr) (givenUp : Bool)
  | ofWriteBack (slot : Slot) (address : PhysAddr) (data : Word)
  deriving DecidableEq, Repr

/-- The memory port unit: the operation in flight and the round-robin pointer (R137). -/
structure MemoryPort where
  operation : Option Operation
  pointer : Requester
  deriving DecidableEq, Repr

/-! ### The fault log (Chapter 10) -/

/-- The nine fault kinds (R147). -/
inductive FaultKind where
  | unmapped
  | denied
  | guard
  | claimword
  | stale
  | fenced
  | memory
  | writeback
  | expired
  deriving DecidableEq, Repr

/-- Access field of a fault record (R148). -/
inductive AccessField where
  | none
  | read
  | write
  deriving DecidableEq, Repr

/-- A fault record (R148). -/
structure FaultRecord where
  kind : FaultKind
  port : Option Port
  access : AccessField
  logical : Option LogAddr
  physical : Option PhysAddr
  ticket : Option Ticket
  deriving DecidableEq, Repr

/-- The fault log: the records, oldest first, and the dropped count (R149, R150). -/
structure FaultLog where
  records : List FaultRecord
  dropped : BitVec 8
  deriving DecidableEq, Repr

/-! ### The supervisor link (Chapter 11) -/

/-- Reasons of a refusal (R158). -/
inductive Reason where
  | field
  | count
  | range
  | order
  | notice
  | guard
  | overlap
  | notHeld
  | ticket
  | notQuarantined
  | command
  deriving DecidableEq, Repr

/-- Status of a response (R158). -/
inductive ResponseStatus where
  | done
  | refused (r : Reason)
  deriving DecidableEq, Repr

/-- A response; its length and check bytes are computed when it is shifted out (R158, R173). -/
structure Response where
  status : ResponseStatus
  seq : Byte
  payload : List Byte
  deriving DecidableEq, Repr

/-- Outcome of the last frame (R159). -/
inductive FrameOutcome where
  | none
  | accepted
  | rejectedBusy
  | rejectedCheck
  | rejectedLength
  deriving DecidableEq, Repr

/-- A selection in progress (R155, R156): the status byte and the response as they stood when select was asserted, and the
bits received, oldest first; their number is also the place in the output. `disregarded`: select was asserted while the part
reset input was asserted, or part reset came during it (R170). -/
structure Selection where
  disregarded : Bool
  statusByte : Byte
  response : Option Response
  received : List Bool
  deriving DecidableEq, Repr

/-- The supervisor link unit. `process` is the sequence number of the QUIESCE in process (command state IN-PROCESS), or
`none` (IDLE); `slot` is READY or EMPTY; `sdo` is the model's record of the bits shifted out in the selection in progress or,
between selections, in the last one (log 14). -/
structure Link where
  process : Option Byte
  slot : Option Response
  outcome : FrameOutcome
  selection : Option Selection
  sdo : List Bool
  deriving DecidableEq, Repr

/-- The quiesce state (R164). -/
inductive QuiesceState where
  | running
  | draining
  | quiesced
  deriving DecidableEq, Repr

/-! ### The whole part -/

/-- The state of the ELG-440 and of the bank behind it. `partReset` is the RESET input (asserted is `true`). `bank` lists
(cell, byte) pairs, the cell of lane l of word a being 4a + l (log 2). `freeIndex` numbers the free values used (log 4).
`pending` holds the commands that wait, first in first out. -/
structure State where
  ports : Vector PortUnit 4
  maps : Vector PortMap 4
  table : Vector Entry 64
  writeBackQueue : List Slot
  notices : Vector NoticeUnit 4
  divisor : Ticks
  divider : Ticks
  memPort : MemoryPort
  log : FaultLog
  link : Link
  quiesce : QuiesceState
  partReset : Bool
  bank : List Host.Cell
  freeIndex : Nat
  pending : List Instr
  deriving DecidableEq, Repr

/-- Reasons a step could stop the machine. There are none: the part reports its faults in replies and in its fault log
(R147), which are data, and the spec gives every command of the table an effect. -/
inductive Fault where
  deriving DecidableEq, Repr

/-- Reasons a step could refuse a command. -/
inductive Refusal where
  /-- Raised by `exec` for a command that has no meaning yet (none is left); safe, since nothing follows from it. -/
  | notModelled (mnemonic : String)
  deriving DecidableEq, Repr

/-- A port unit after part reset (R136), its input pins at rest (log 1). -/
def PortUnit.atReset : PortUnit :=
  { phase := .idle, fence := false, resetAsserted := false, presented := none, replies := [] }

/-- A notice unit after part reset (R121). -/
def NoticeUnit.empty : NoticeUnit := { queue := [], overflow := false, enable := false }

/-- The part just after part reset, its reset input released (R5, R65, R78, R121, R136, R146, R154, R170; log 1). -/
def State.reset : State :=
  { ports := Vector.replicate 4 PortUnit.atReset
    maps := Vector.replicate 4 .openMode
    table := Vector.replicate 64 .free
    writeBackQueue := []
    notices := Vector.replicate 4 NoticeUnit.empty
    divisor := 10
    divider := 10
    memPort := { operation := none, pointer := .writeBack }
    log := { records := [], dropped := 0 }
    link := { process := none, slot := none, outcome := .none, selection := none, sdo := [] }
    quiesce := .running
    partReset := false
    bank := []
    freeIndex := 0
    pending := [] }

end Sys2Proof.Machine
end

