-- ==== Sys2Proof/Machine/Operands.lean ====
section
/-! DEFINITION. The formats and codes of Chapter 12: words at the master ports, segment records, frames, responses and the
records carried in responses. -/

namespace Sys2Proof.Machine

/-! ### Words at the master ports (section 12.1, R171) -/

/-- Outcomes of claim attempts and views (R23, R33). -/
inductive ClaimOutcome where
  | granted
  | held
  | busy
  | queued
  | full
  | broken
  | deadlock
  | timeout
  | free
  | taken
  deriving DecidableEq, Repr

/-- Outcome codes (R171). -/
def ClaimOutcome.code : ClaimOutcome → BitVec 4
  | .granted => 1
  | .held => 2
  | .busy => 3
  | .queued => 4
  | .full => 5
  | .broken => 6
  | .deadlock => 7
  | .timeout => 8
  | .free => 9
  | .taken => 10

/-- The two bits that number a port. -/
def portBits (p : Port) : BitVec 2 := BitVec.ofNat 2 p.val

/-- Claim reply word and view reply word: outcome, port, count, ticket, payload (R171). -/
def replyWord (o : ClaimOutcome) (p : Port) (count : Nat) (ticket : Ticket) (payload : Payload) : Word :=
  o.code ++ portBits p ++ BitVec.ofNat 2 count ++ ticket ++ payload

/-- Stored ticket of a claim word, written ticket of a release word: bits 23 to 16 (R1, R36). -/
def ticketOf (w : Word) : Ticket := w.extractLsb' 16 8

/-- Stored payload of a claim word, written payload of a release word: bits 15 to 0 (R1, R36). -/
def payloadOf (w : Word) : Payload := w.extractLsb' 0 16

/-- The claim word that a write-back writes: bits 31 to 24 zero (R1, R15). -/
def claimWord (ticket : Ticket) (payload : Payload) : Word := (0 : BitVec 8) ++ ticket ++ payload

/-- Lane `l` of a word: lane 0 is bits 7 to 0 (CONVENTIONS). -/
def laneOf (w : Word) (l : Nat) : Byte := w.extractLsb' (8 * l) 8

/-- A word from its four lanes, lane 3 first. -/
def wordOfLanes (l3 l2 l1 l0 : Byte) : Word := l3 ++ l2 ++ l1 ++ l0

/-- Notice kind codes (R171). -/
def NoticeKind.code : NoticeKind → BitVec 4
  | .handoff => 1
  | .expired => 2
  | .revoked => 3
  | .contended => 4

/-- Kind code of the EMPTY reply (R171). -/
def emptyCode : BitVec 4 := 0

/-- Kind code of the OVERFLOW reply (R171). -/
def overflowCode : BitVec 4 := 5

/-- Notice word: kind, other port, ticket bits, claim-word address (R171). -/
def noticeWord (kind : BitVec 4) (other : Port) (ticketBits : BitVec 4) (address : PhysAddr) : Word :=
  kind ++ portBits other ++ ticketBits ++ address

/-- The notice word of a queued notice (R114, R171). -/
def Notice.word (n : Notice) : Word := noticeWord n.kind.code n.other n.ticketBits n.address

/-- Low four bits of a ticket, as a notice carries them (R111). -/
def ticketBits (t : Ticket) : BitVec 4 := t.extractLsb' 0 4

/-! ### Byte order of the link: most significant byte first (CONVENTIONS) -/

/-- A field of two bytes. -/
def bytes16 (x : BitVec 16) : List Byte := [x.extractLsb' 8 8, x.extractLsb' 0 8]

/-- A field of three bytes. -/
def bytes24 (x : BitVec 24) : List Byte := [x.extractLsb' 16 8, x.extractLsb' 8 8, x.extractLsb' 0 8]

/-- A field of four bytes. -/
def bytes32 (x : BitVec 32) : List Byte :=
  [x.extractLsb' 24 8, x.extractLsb' 16 8, x.extractLsb' 8 8, x.extractLsb' 0 8]

/-- A count as one byte. -/
def countByte (n : Nat) : Byte := BitVec.ofNat 8 n

/-! ### The segment record (section 12.2, R172) -/

/-- The four segment kinds (R80). -/
inductive SegmentKind where
  | plain
  | claim
  | view
  | notice
  deriving DecidableEq, Repr

/-- Kind of a segment, descriptor bits 31 to 29; `none` where the code is undefined (R172). -/
def Segment.kind (g : Segment) : Option SegmentKind :=
  match (g.descriptor.extractLsb' 29 3).toNat with
  | 1 => some .plain
  | 2 => some .claim
  | 3 => some .view
  | 4 => some .notice
  | _ => none

/-- Attribute of a segment (R172). -/
inductive Attribute where
  | absent
  | access (a : PlainAccess)
  | mode (m : ClaimMode)
  | undefined
  deriving DecidableEq, Repr

/-- Attribute, descriptor bits 28 to 26 (R172). -/
def Segment.attribute (g : Segment) : Attribute :=
  match (g.descriptor.extractLsb' 26 3).toNat with
  | 0 => .absent
  | 1 => .access .readOnly
  | 2 => .access .readWrite
  | 3 => .mode .poll
  | 4 => .mode .queue
  | 5 => .mode .wait
  | _ => .undefined

/-- Guard reads too, descriptor bit 25 (R172). -/
def Segment.readsToo (g : Segment) : Bool := g.descriptor.getLsbD 25

/-- Guard present, descriptor bit 24 (R172). -/
def Segment.guardPresent (g : Segment) : Bool := g.descriptor.getLsbD 24

/-- Guard address as held, descriptor bits 23 to 0, disregarded while guard present is 0 (R172). -/
def Segment.guardField (g : Segment) : BitVec 24 := g.descriptor.extractLsb' 0 24

/-- The guard of a segment, if it carries one (R80, R172). -/
def Segment.guard (g : Segment) : Option Guard :=
  if g.guardPresent then some { address := g.guardField.setWidth 22, readsToo := g.readsToo } else none

/-- The fourteen bytes of a record (section 12.2). -/
def Segment.bytes (g : Segment) : List Byte :=
  bytes16 g.basePage ++ bytes16 g.pageCount ++ bytes16 g.baseFrame ++ bytes32 g.descriptor
    ++ bytes16 g.lease ++ bytes16 g.limit

/-- The records that a list of bytes holds, fourteen bytes each (R172). -/
def segmentsOf : List Byte → List Segment
  | b0 :: b1 :: b2 :: b3 :: b4 :: b5 :: b6 :: b7 :: b8 :: b9 :: b10 :: b11 :: b12 :: b13 :: rest =>
    { basePage := b0 ++ b1, pageCount := b2 ++ b3, baseFrame := b4 ++ b5, descriptor := b6 ++ b7 ++ b8 ++ b9,
      lease := b10 ++ b11, limit := b12 ++ b13 } :: segmentsOf rest
  | _ => []

/-! ### Frames and responses of the supervisor link (section 12.3, R157, R158, R173) -/

/-- Code of a command (section 12.3). -/
def Command.code : Command → Byte
  | .status => 0x01
  | .mapLoad _ _ _ => 0x02
  | .mapRead _ => 0x03
  | .mapOpen _ => 0x04
  | .fence _ _ => 0x05
  | .unfence _ => 0x06
  | .quiesce => 0x07
  | .resume => 0x08
  | .claimList _ _ => 0x09
  | .claimRevoke _ _ _ => 0x0A
  | .claimClear _ => 0x0B
  | .logRead _ => 0x0C
  | .timeSet _ => 0x0D
  | .unknown code => code

/-- Payload of a command (section 12.3); that of an unknown command is taken empty. -/
def Command.payload : Command → List Byte
  | .status => []
  | .mapLoad port count records => port :: count :: records
  | .mapRead port => [port]
  | .mapOpen port => [port]
  | .fence port revoke => [port, revoke]
  | .unfence port => [port]
  | .quiesce => []
  | .resume => []
  | .claimList first maximum => [first, maximum]
  | .claimRevoke slot addr ticket => slot :: bytes24 addr ++ [ticket]
  | .claimClear slot => [slot]
  | .logRead maximum => [maximum]
  | .timeSet divisor => bytes16 divisor
  | .unknown _ => []

/-- The command of an accepted frame; `none` where the payload has not the length that the command requires (R157, R160).
A code that names no command has any length (R157). -/
def commandOfFrame (code : Byte) (payload : List Byte) : Option Command :=
  match code.toNat with
  | 0x01 => match payload with
    | [] => some .status
    | _ => none
  | 0x02 => match payload with
    | port :: count :: records =>
      if records.length = 14 * count.toNat then some (.mapLoad port count records) else none
    | _ => none
  | 0x03 => match payload with
    | [port] => some (.mapRead port)
    | _ => none
  | 0x04 => match payload with
    | [port] => some (.mapOpen port)
    | _ => none
  | 0x05 => match payload with
    | [port, revoke] => some (.fence port revoke)
    | _ => none
  | 0x06 => match payload with
    | [port] => some (.unfence port)
    | _ => none
  | 0x07 => match payload with
    | [] => some .quiesce
    | _ => none
  | 0x08 => match payload with
    | [] => some .resume
    | _ => none
  | 0x09 => match payload with
    | [first, maximum] => some (.claimList first maximum)
    | _ => none
  | 0x0A => match payload with
    | [slot, a2, a1, a0, ticket] => some (.claimRevoke slot (a2 ++ a1 ++ a0) ticket)
    | _ => none
  | 0x0B => match payload with
    | [slot] => some (.claimClear slot)
    | _ => none
  | 0x0C => match payload with
    | [maximum] => some (.logRead maximum)
    | _ => none
  | 0x0D => match payload with
    | [hi, lo] => some (.timeSet (hi ++ lo))
    | _ => none
  | _ => some (.unknown code)

/-- Sum of bytes modulo 256 (R157). -/
def byteSum (l : List Byte) : Byte := l.foldr (· + ·) 0

/-- The check byte that makes all the bytes sum to zero modulo 256 (R157, R158). -/
def checkByte (l : List Byte) : Byte := - byteSum l

/-- The bytes of a good frame (section 12.3). -/
def frameBytes (code seq : Byte) (payload : List Byte) : List Byte :=
  let head := code :: seq :: countByte payload.length :: payload
  head ++ [checkByte head]

/-- Reason codes (section 12.3). -/
def Reason.code : Reason → Byte
  | .field => 0x01
  | .count => 0x02
  | .range => 0x03
  | .order => 0x04
  | .notice => 0x05
  | .guard => 0x06
  | .overlap => 0x07
  | .notHeld => 0x08
  | .ticket => 0x09
  | .notQuarantined => 0x0A
  | .command => 0x0B

/-- Status byte of a response: 00H for DONE, or the reason code (R173). -/
def ResponseStatus.code : ResponseStatus → Byte
  | .done => 0x00
  | .refused r => r.code

/-- The bytes of a response: status, sequence number, length, payload, check byte (R158, section 12.3). -/
def Response.bytes (r : Response) : List Byte :=
  let head := r.status.code :: r.seq :: countByte r.payload.length :: r.payload
  head ++ [checkByte head]

/-- Last-frame outcome codes of the link status byte (section 12.3). -/
def FrameOutcome.code : FrameOutcome → BitVec 3
  | .none => 0
  | .accepted => 1
  | .rejectedBusy => 2
  | .rejectedCheck => 3
  | .rejectedLength => 4

/-- Bits of a byte, most significant first (CONVENTIONS). -/
def byteBits (b : Byte) : List Bool :=
  [b.getLsbD 7, b.getLsbD 6, b.getLsbD 5, b.getLsbD 4, b.getLsbD 3, b.getLsbD 2, b.getLsbD 1, b.getLsbD 0]

/-- Bits of a run of bytes. -/
def bitsOf (l : List Byte) : List Bool := l.flatMap byteBits

/-- A byte from its bits, most significant first. -/
def byteOfBits (b7 b6 b5 b4 b3 b2 b1 b0 : Bool) : Byte :=
  BitVec.ofBool b7 ++ BitVec.ofBool b6 ++ BitVec.ofBool b5 ++ BitVec.ofBool b4
    ++ BitVec.ofBool b3 ++ BitVec.ofBool b2 ++ BitVec.ofBool b1 ++ BitVec.ofBool b0

/-- The complete bytes of a run of bits; a byte left incomplete at the end is not received (R156). -/
def bytesOf : List Bool → List Byte
  | b7 :: b6 :: b5 :: b4 :: b3 :: b2 :: b1 :: b0 :: rest => byteOfBits b7 b6 b5 b4 b3 b2 b1 b0 :: bytesOf rest
  | _ => []

/-! ### Records in responses (section 12.4, R174) -/

/-- State codes of a CLAIM-LIST record and a CLAIM-REVOKE response (R173). -/
def Entry.stateCode : Entry → Byte
  | .free => 0
  | .fetching _ _ _ => 1
  | .held _ => 2
  | .retiring _ => 3
  | .quarantined _ _ _ => 4

/-- Orphan mark codes (section 12.4). -/
def OrphanMark.code : OrphanMark → BitVec 2
  | .none => 0
  | .fenced => 1
  | .offline => 2

/-- Waiter byte of a CLAIM-LIST record: present, mode, port (section 12.4). -/
def Waiter.byte (w : Waiter) : Byte :=
  let mode : BitVec 1 := match w.mode with
    | .queue => 0
    | .wait _ _ => 1
  (1 : BitVec 1) ++ (0 : BitVec 4) ++ mode ++ portBits w.port

/-- The three waiter bytes, oldest first, absent ones 0 (R174). -/
def waiterBytes (l : List Waiter) : List Byte :=
  ((l.map Waiter.byte) ++ [0, 0, 0]).take 3

/-- Byte 11 of a CLAIM-LIST record: lease present, write-back state, number of waiter records (section 12.4). -/
def stateByte (lease : Bool) (writeBack : BitVec 2) (waiters : Nat) : Byte :=
  BitVec.ofBool lease ++ (0 : BitVec 1) ++ writeBack ++ (0 : BitVec 2) ++ BitVec.ofNat 2 waiters

/-- Byte 5 of a CLAIM-LIST record: port present, orphan mark, port (section 12.4). -/
def portByte (mark : BitVec 2) (p : Port) : Byte :=
  (1 : BitVec 1) ++ (0 : BitVec 1) ++ mark ++ (0 : BitVec 2) ++ portBits p

/-- Bytes 2 to 14 of the CLAIM-LIST record of an entry (section 12.4, R174); empty for a FREE entry, which is not listed. -/
def Entry.recordTail : Entry → List Byte
  | .free => []
  | .fetching address port mark =>
    bytes24 (address.setWidth 24) ++ [portByte mark.code port, 0] ++ bytes16 0 ++ bytes16 0
      ++ [stateByte false 0 0] ++ waiterBytes []
  | .held h =>
    bytes24 (h.address.setWidth 24) ++ [portByte 0 h.holder, h.ticket] ++ bytes16 h.payload
      ++ bytes16 (h.lease.elim 0 Lease.remaining)
      ++ [stateByte h.lease.isSome (if h.writeBack.isSome then 2 else 0) h.waiters.length] ++ waiterBytes h.waiters
  | .retiring r =>
    bytes24 (r.address.setWidth 24) ++ [0, r.ticket] ++ bytes16 r.payload ++ bytes16 0
      ++ [stateByte false (if r.writeBack.isSome then 2 else 1) 0] ++ waiterBytes []
  | .quarantined address ticket payload =>
    bytes24 (address.setWidth 24) ++ [0, ticket] ++ bytes16 payload ++ bytes16 0
      ++ [stateByte false 0 0] ++ waiterBytes []

/-- The fifteen bytes of the CLAIM-LIST record of the entry in a slot (R166, section 12.4). -/
def claimRecord (i : Slot) (e : Entry) : List Byte := countByte i.val :: e.stateCode :: e.recordTail

/-- Fault kind codes (section 12.4). -/
def FaultKind.code : FaultKind → Byte
  | .unmapped => 1
  | .denied => 2
  | .guard => 3
  | .claimword => 4
  | .stale => 5
  | .fenced => 6
  | .memory => 7
  | .writeback => 8
  | .expired => 9

/-- Access codes of a fault record (section 12.4). -/
def AccessField.code : AccessField → BitVec 2
  | .none => 0
  | .read => 1
  | .write => 2

/-- The nine bytes of a fault record (section 12.4, R174). -/
def FaultRecord.bytes (r : FaultRecord) : List Byte :=
  [r.kind.code,
    BitVec.ofBool r.ticket.isSome ++ BitVec.ofBool r.physical.isSome ++ BitVec.ofBool r.logical.isSome
      ++ r.access.code ++ BitVec.ofBool r.port.isSome ++ r.port.elim 0 portBits]
    ++ bytes24 ((r.logical.getD 0).setWidth 24) ++ bytes24 ((r.physical.getD 0).setWidth 24) ++ [r.ticket.getD 0]

end Sys2Proof.Machine
end

