-- ==== Sys2Proof/Machine/Ops.lean ====
section
/-! DEFINITION. The named operations over State that the meanings share: the home of each port's, entry's and queue's reads
and writes, completions, notices, fault records, the lookup of the claim table, and the bank. -/

namespace Sys2Proof.Machine

/-! ### One home for each indexed piece of state -/

/-- The port unit of a port. -/
def State.port (s : State) (p : Port) : PortUnit := s.ports[p.val]

/-- Replace the port unit of a port. -/
def State.setPort (s : State) (p : Port) (u : PortUnit) : State := { s with ports := s.ports.set p.val u }

/-- The map of a port. -/
def State.map (s : State) (p : Port) : PortMap := s.maps[p.val]

/-- Replace the map of a port. -/
def State.setMap (s : State) (p : Port) (m : PortMap) : State := { s with maps := s.maps.set p.val m }

/-- The entry in a slot of the claim table. -/
def State.entry (s : State) (i : Slot) : Entry := s.table[i.val]

/-- Replace the entry in a slot. -/
def State.setEntry (s : State) (i : Slot) (e : Entry) : State := { s with table := s.table.set i.val e }

/-- What the notice unit holds for a port. -/
def State.notice (s : State) (p : Port) : NoticeUnit := s.notices[p.val]

/-- Replace what the notice unit holds for a port. -/
def State.setNotice (s : State) (p : Port) (n : NoticeUnit) : State := { s with notices := s.notices.set p.val n }

/-! ### One update for each other piece of state -/

/-- Replace the write-back queue. -/
def State.setQueue (s : State) (l : List Slot) : State := { s with writeBackQueue := l }

/-- Replace the operation in flight at the memory port. -/
def State.setOperation (s : State) (op : Option Operation) : State :=
  { s with memPort := { s.memPort with operation := op } }

/-- Replace the bank. -/
def State.setBank (s : State) (m : List Host.Cell) : State := { s with bank := m }

/-- The free value numbered `freeIndex` has been used (log 4). -/
def State.useFree (s : State) : State := { s with freeIndex := s.freeIndex + 1 }

/-- Replace the divider count. -/
def State.setDivider (s : State) (n : Ticks) : State := { s with divider := n }

/-- Replace the fault log. -/
def State.setLog (s : State) (l : FaultLog) : State := { s with log := l }

/-- Replace the quiesce state. -/
def State.setQuiesce (s : State) (q : QuiesceState) : State := { s with quiesce := q }

/-- Replace the link unit's own state. -/
def State.setLink (s : State) (l : Link) : State := { s with link := l }

/-! ### Free choices (log 12) -/

/-- The next free choice among `n` cases: a free value, used only where there is a choice. -/
def State.choose (s : State) (n : Nat) : Nat := if n ≤ 1 then 0 else Config.order s.freeIndex % n

/-- The free value of a choice among `n` cases has been used, if there was a choice. -/
def State.chosen (s : State) (n : Nat) : State := if n ≤ 1 then s else s.useFree

/-! ### Port units -/

/-- Set the phase of a port. -/
def State.setPhase (s : State) (p : Port) (ph : Phase) : State := s.setPort p { s.port p with phase := ph }

/-- Return a completion to the master of a port (R122). -/
def State.reply (s : State) (p : Port) (r : Reply) : State :=
  s.setPort p { s.port p with replies := (s.port p).replies ++ [r] }

/-- Complete the transaction in flight of a port: the record is discarded and the phase becomes IDLE (R122). -/
def State.finish (s : State) (p : Port) (r : Reply) : State := (s.setPhase p .idle).reply p r

/-- The completion FAULT of an access: the read data of a faulted read is driven as zero (R171). -/
def Direction.fault : Direction → Reply
  | .read => .readFault 0
  | .write _ => .writeFault

/-- Access field of a record for a direction (R148). -/
def Direction.field : Direction → AccessField
  | .read => .read
  | .write _ => .write

/-! ### The fault log (R149, R150) -/

/-- A record reaches the log: appended while it holds fewer than sixteen, else dropped and counted, up to 255. -/
def FaultLog.append (l : FaultLog) (r : FaultRecord) : FaultLog :=
  if l.records.length < 16 then { l with records := l.records ++ [r] }
  else { l with dropped := if l.dropped = 255 then 255 else l.dropped + 1 }

/-- Send a record to the fault log. -/
def State.logFault (s : State) (r : FaultRecord) : State := { s with log := s.log.append r }

/-! ### Notices (R112, R113, R120) -/

/-- A notice arrives at a queue: appended while it holds fewer than eight, else dropped with the overflow marker set. -/
def NoticeUnit.arrive (u : NoticeUnit) (n : Notice) : NoticeUnit :=
  if u.queue.length < 8 then { u with queue := u.queue ++ [n] } else { u with overflow := true }

/-- Send a notice to a port; it is discarded while the port's reset input is asserted (R120). -/
def State.notify (s : State) (p : Port) (n : Notice) : State :=
  if (s.port p).resetAsserted then s else s.setNotice p ((s.notice p).arrive n)

/-! ### The claim table -/

/-- Claim-word address of a non-FREE entry (R3). -/
def Entry.address : Entry → Option PhysAddr
  | .free => none
  | .fetching address _ _ => some address
  | .held h => some h.address
  | .retiring r => some r.address
  | .quarantined address _ _ => some address

/-- Waiter list of an entry: non-empty in HELD only (R3). -/
def Entry.waiters : Entry → List Waiter
  | .held h => h.waiters
  | _ => []

/-- The slots of the claim table, in ascending order. -/
def slots : List Slot := List.finRange 64

/-- The slot of the entry for a physical address: the non-FREE entry with that claim-word address (R2). -/
def State.lookup (s : State) (a : PhysAddr) : Option Slot := slots.find? fun i => (s.entry i).address = some a

/-- The lowest-numbered FREE slot (R6). -/
def State.lowestFree (s : State) : Option Slot := slots.find? fun i => s.entry i = .free

/-- Guard query: is the entry for the address HELD by the port (R21)? -/
def State.guardQuery (s : State) (p : Port) (a : PhysAddr) : Bool :=
  match s.lookup a with
  | some i => match s.entry i with
    | .held h => h.holder = p
    | _ => false
  | none => false

/-- Occupancy query: has the address a non-FREE entry (R21)? -/
def State.occupied (s : State) (a : PhysAddr) : Bool := (s.lookup a).isSome

/-- Apply an action at every slot in ascending order (R58). -/
def State.forSlots (s : State) (f : State → Slot → State) : State := slots.foldl f s

/-- A port's waiter record, whatever its mode. -/
def enrolled (l : List Waiter) (p : Port) : Bool := l.any fun w => w.port = p

/-- Place of a port in a waiter list counted from the head, 1 to 3 (R46). -/
def position (l : List Waiter) (p : Port) : Nat := l.findIdx (fun w => w.port = p) + 1

/-- A waiter list without the records of a port; those behind move up (R46). -/
def without (l : List Waiter) (p : Port) : List Waiter := l.filter fun w => w.port ≠ p

/-- Is a record in WAIT mode? -/
def Waiter.waits (w : Waiter) : Bool :=
  match w.mode with
  | .wait _ _ => true
  | .queue => false

/-- The lease of a grant: both fields at the length, or no lease where the length is 0 (R69). -/
def leaseOf (length : Ticks) : Option Lease :=
  if length = 0 then none else some { length := length, remaining := length }

/-- Mode of a WAIT record: the count is set to the limit, and absent where the limit is 0 (R51). -/
def waitMode (limit : Ticks) : WaiterMode :=
  .wait limit (if limit = 0 then none else some limit)

/-! ### The bank: cells in one canonical form -/

/-- What a byte that nothing has written reads as (log 2). -/
def blankByte : Byte := 0

/-- Read a cell. -/
def readCell : List Host.Cell → Nat → Byte
  | [], _ => blankByte
  | (k, b) :: rest, c => if k = c then b else readCell rest c

/-- Write a cell, keeping the keys rising and listing no blank byte. -/
def writeCell : List Host.Cell → Nat → Byte → List Host.Cell
  | [], c, b => if b = blankByte then [] else [(c, b)]
  | (k, v) :: rest, c, b =>
    if c < k then (if b = blankByte then (k, v) :: rest else (c, b) :: (k, v) :: rest)
    else if c = k then (if b = blankByte then rest else (k, b) :: rest)
    else (k, v) :: writeCell rest c b

/-- The cell of lane `l` of the word at an address. -/
def cellOf (a : PhysAddr) (l : Nat) : Nat := 4 * a.toNat + l

/-- Read a whole word (R138). -/
def readWord (m : List Host.Cell) (a : PhysAddr) : Word :=
  wordOfLanes (readCell m (cellOf a 3)) (readCell m (cellOf a 2)) (readCell m (cellOf a 1)) (readCell m (cellOf a 0))

/-- Write lane `l` of a word if it is enabled (R98). -/
def writeLane (m : List Host.Cell) (a : PhysAddr) (be : Lanes) (d : Word) (l : Nat) : List Host.Cell :=
  if be.getLsbD l then writeCell m (cellOf a l) (laneOf d l) else m

/-- Write the enabled lanes of a word; the others keep their content (R98). -/
def writeWord (m : List Host.Cell) (a : PhysAddr) (be : Lanes) (d : Word) : List Host.Cell :=
  writeLane (writeLane (writeLane (writeLane m a be d 0) a be d 1) a be d 2) a be d 3

/-- The canonical form: keys strictly rising, every key a cell of the bank, no byte that an unlisted cell reads as. -/
def bankWf (m : List Host.Cell) : Bool :=
  decide (m.Pairwise fun x y => x.1 < y.1) && m.all fun x => x.1 < 4 * 4194304 && x.2 ≠ blankByte

/-- All four lanes. -/
def allLanes : Lanes := 0xF

end Sys2Proof.Machine
end

