-- ==== Sys2Proof/Machine/Flags.lean ====
section
/-! DEFINITION. Conditions and outputs derived from State: port conditions, the attention outputs, when a request is taken,
when a port is drained, the link status byte and the STATUS report. -/

namespace Sys2Proof.Machine

/-- Condition of a port (R125). -/
inductive Condition where
  | online
  | offline
  | fenced
  deriving DecidableEq, Repr

/-- The condition follows from the port reset input and the fence flag (R125). -/
def PortUnit.condition (u : PortUnit) : Condition :=
  if u.resetAsserted then .offline else if u.fence then .fenced else .online

/-- Level of a port's attention output: enabled, and something in the queue or the marker set (R118). -/
def NoticeUnit.attention (u : NoticeUnit) : Bool := u.enable && (!u.queue.isEmpty || u.overflow)

/-- Attention output Pn_ATTN of a port (R118). -/
def State.attention (s : State) (p : Port) : Bool := (s.notice p).attention

/-- Is the phase STALLED? -/
def Phase.isStalled : Phase → Bool
  | .stalled _ => true
  | _ => false

/-- The port unit takes a presented request: reset deasserted, part RUNNING, phase IDLE (R123), and the part not held in
part reset (section 12.5, log 10). -/
def State.takes (s : State) (p : Port) : Bool :=
  !s.partReset && !(s.port p).resetAsserted && s.quiesce = .running && (s.port p).phase = .idle

/-- A port counts as drained when its phase is IDLE or STALLED (R135, R164). -/
def Phase.drained : Phase → Bool
  | .idle => true
  | .stalled _ => true
  | .queued _ => false
  | .inMemory _ => false

/-- Every port is drained (R164). -/
def State.allDrained (s : State) : Bool := (List.finRange 4).all fun p => (s.port p).phase.drained

/-- Link status byte: command in process, response ready, zeros, last-frame outcome (R159, R173). -/
def Link.statusByte (l : Link) : Byte :=
  BitVec.ofBool l.process.isSome ++ BitVec.ofBool l.slot.isSome ++ (0 : BitVec 3) ++ l.outcome.code

/-- Condition codes of a STATUS port byte (section 12.3). -/
def Condition.code : Condition → BitVec 2
  | .online => 0
  | .offline => 1
  | .fenced => 2

/-- Phase codes of a STATUS port byte (section 12.3). -/
def Phase.code : Phase → BitVec 2
  | .idle => 0
  | .queued _ => 1
  | .inMemory _ => 2
  | .stalled _ => 3

/-- STATUS port byte: fence flag, phase, condition (section 12.3). -/
def PortUnit.statusByte (u : PortUnit) : Byte :=
  (0 : BitVec 3) ++ BitVec.ofBool u.fence ++ u.phase.code ++ u.condition.code

/-- Quiesce state codes (section 12.3). -/
def QuiesceState.code : QuiesceState → Byte
  | .running => 0
  | .draining => 1
  | .quiesced => 2

/-- Number of entries with a state code (R161). -/
def State.countEntries (s : State) (code : Byte) : Nat := slots.countP fun i => (s.entry i).stateCode = code

/-- Payload of the STATUS response: fourteen bytes (R161, section 12.3). -/
def State.statusPayload (s : State) : List Byte :=
  (List.finRange 4).map (fun p => (s.port p).statusByte)
    ++ [s.quiesce.code, countByte (s.countEntries 1), countByte (s.countEntries 2), countByte (s.countEntries 3),
        countByte (s.countEntries 4), countByte s.writeBackQueue.length, countByte s.log.records.length, s.log.dropped]
    ++ bytes16 s.divisor

end Sys2Proof.Machine
end

