-- ==== Sys2Proof/Machine/Maps.lean ====
section
/-! DEFINITION. The map unit: translation and the checks of a replacement list (Chapter 5). -/

namespace Sys2Proof.Machine

/-! ### Translation (R79, R82, R83) -/

/-- Does a segment cover a logical page? (R80) -/
def Segment.covers (g : Segment) (page : Nat) : Bool :=
  g.basePage.toNat ≤ page && page < g.basePage.toNat + g.pageCount.toNat

/-- Physical address of a logical address through a segment: base frame times 1024, plus the address, minus base page times
1024 (R82). -/
def Segment.place (g : Segment) (a : LogAddr) : PhysAddr :=
  BitVec.ofNat 22 (g.baseFrame.toNat * 1024 + (a.toNat - g.basePage.toNat * 1024))

/-- What a segment makes of an address that it covers (R82, R85). A segment whose kind and attribute are not those of an
installed record (R80) gives the address no meaning. -/
def Segment.route (g : Segment) (a : LogAddr) : Route :=
  match g.kind, g.attribute with
  | some .plain, .access acc => .memory (g.place a) (.plain acc g.guard)
  | some .claim, .mode m => .memory (g.place a) (.claim { mode := m, lease := g.lease, limit := g.limit })
  | some .view, _ => .memory (g.place a) .view
  | some .notice, _ => .notice
  | _, _ => .unmapped

/-- Translation of a logical address by a port's map (R79, R82, R83). -/
def PortMap.translate : PortMap → LogAddr → Route
  | .openMode, a => .memory (a.setWidth 22) (.plain .readWrite none)
  | .mapped l, a =>
    match l.find? fun g => g.covers (a.toNat / 1024) with
    | some g => g.route a
    | none => .unmapped

/-! ### Checks of a replacement list (R87 to R90, R172) -/

/-- The field check of a record (R87, R172). -/
def Segment.fieldOk (g : Segment) : Bool :=
  match g.kind, g.attribute with
  | some .plain, .access _ => (!g.readsToo || g.guardPresent) && g.lease = 0 && g.limit = 0
  | some .claim, .mode _ => !g.guardPresent && !g.readsToo
  | some .view, .absent => !g.guardPresent && !g.readsToo && g.lease = 0 && g.limit = 0
  | some .notice, .absent => !g.guardPresent && !g.readsToo && g.lease = 0 && g.limit = 0
  | _, _ => false

/-- The range check of a record (R88). -/
def Segment.rangeOk (g : Segment) : Bool :=
  g.basePage.toNat ≤ 1023 && 1 ≤ g.pageCount.toNat && g.pageCount.toNat ≤ 1024
    && g.basePage.toNat + g.pageCount.toNat ≤ 1024
    && (g.kind = some .notice || (g.baseFrame.toNat ≤ 4095 && g.baseFrame.toNat + g.pageCount.toNat ≤ 4096))
    && (!g.guardPresent || g.guardField.toNat ≤ 0x3FFFFF)

/-- The per-record checks, record by record from number `n`: first field, then range (R87). -/
def recordFault (n : Nat) : List Segment → Option (Reason × Nat)
  | [] => none
  | g :: rest =>
    if !g.fieldOk then some (.field, n) else if !g.rangeOk then some (.range, n) else recordFault (n + 1) rest

/-- The ORDER check: the later record of the first pair of neighbours of which the later begins before the earlier ends;
`n` is the number of the list's first record (R89). -/
def orderFault (n : Nat) : List Segment → Option Nat
  | g :: h :: rest =>
    if h.basePage.toNat < g.basePage.toNat + g.pageCount.toNat then some (n + 1) else orderFault (n + 1) (h :: rest)
  | _ => none

/-- The NOTICE check: the first NOTICE record that is the second one or has a page count other than 1; `seen` says that a
NOTICE record came before (R89). -/
def noticeFault (n : Nat) (seen : Bool) : List Segment → Option Nat
  | [] => none
  | g :: rest =>
    if g.kind = some .notice then
      if seen || g.pageCount ≠ 1 then some n else noticeFault (n + 1) true rest
    else noticeFault (n + 1) seen rest

/-- Does an address lie within the covered frames of a record? (R90) -/
def Segment.holdsAddress (g : Segment) (a : PhysAddr) : Bool :=
  g.baseFrame.toNat * 1024 ≤ a.toNat && a.toNat < (g.baseFrame.toNat + g.pageCount.toNat) * 1024

/-- Do the covered frames of two records share a frame? (R90) -/
def Segment.sharesFrame (g h : Segment) : Bool :=
  g.baseFrame.toNat < h.baseFrame.toNat + h.pageCount.toNat && h.baseFrame.toNat < g.baseFrame.toNat + g.pageCount.toNat

/-- The CLAIM records of a list. -/
def claimSegments (l : List Segment) : List Segment := l.filter fun g => g.kind = some .claim

/-- A PLAIN record whose guard address lies outside every CLAIM record of the list (R90). -/
def Segment.guardOutside (g : Segment) (l : List Segment) : Bool :=
  g.kind = some .plain && g.guard.any fun gd => !(claimSegments l).any fun c => c.holdsAddress gd.address

/-- A PLAIN record that shares a frame with a CLAIM record of the list (R90). -/
def Segment.overlapsClaim (g : Segment) (l : List Segment) : Bool :=
  g.kind = some .plain && (claimSegments l).any fun c => g.sharesFrame c

/-- The first failing check of a list, with the record it names, in the order of R87 from step 3 on. -/
def listFault (l : List Segment) : Option (Reason × Nat) :=
  match recordFault 0 l with
  | some f => some f
  | none =>
  match orderFault 0 l with
  | some n => some (.order, n)
  | none =>
  match noticeFault 0 false l with
  | some n => some (.notice, n)
  | none =>
  match l.findIdx? fun g => g.guardOutside l with
  | some n => some (.guard, n)
  | none =>
  match l.findIdx? fun g => g.overlapsClaim l with
  | some n => some (.overlap, n)
  | none => none

/-- The port that a command's port byte names, if it is 0 to 3 (R160). -/
def portOfByte (b : Byte) : Option Port := if h : b.toNat < 4 then some ⟨b.toNat, h⟩ else none

/-- The slot that a command's slot byte names, if it is 0 to 63 (R160). -/
def slotOfByte (b : Byte) : Option Slot := if h : b.toNat < 64 then some ⟨b.toNat, h⟩ else none

/-- The checks of a MAP-LOAD in the order of R87: the first reason that fails, and the record named, if any. -/
def mapLoadFault (port count : Byte) (records : List Byte) : Option (Reason × Option Nat) :=
  if (portOfByte port).isNone then some (.field, none)
  else if 8 < count.toNat then some (.count, none)
  else (listFault (segmentsOf records)).map fun (r, n) => (r, some n)

end Sys2Proof.Machine
end

