-- ==== Sys2Proof/Machine/ClaimUnit.lean ====
section
/-! DEFINITION. The claim unit: the passing on of a lost claim, claim attempts, claim-word writes, views, expiries and the
removal of waiter records (Chapters 1 to 4). -/

namespace Sys2Proof.Machine

/-! ### Loss of a claim (R55 to R58, R13) -/

/-- The five causes of a loss (R42). -/
inductive LossCause where
  | release
  | expiry
  | revoke
  | offline
  | fenceRevoke
  deriving DecidableEq, Repr

/-- A grant taken while a write-back is in flight sets its regranted mark (R3, R18, R55). -/
def InFlight.regrant (f : InFlight) : InFlight := { f with regranted := true }

/-- The entry after a handoff to its head waiter (R55): next ticket, the payload as it stands, the lease of the record. -/
def HeldEntry.handTo (h : HeldEntry) (w : Waiter) (rest : List Waiter) : HeldEntry :=
  { h with holder := w.port, ticket := h.ticket + 1, lease := leaseOf w.lease, waiters := rest
           writeBack := h.writeBack.map InFlight.regrant }

/-- The entry after retirement (R13): holder and lease are gone, ticket and payload are kept. -/
def HeldEntry.retired (h : HeldEntry) : RetiringEntry :=
  { address := h.address, ticket := h.ticket, payload := h.payload, writeBack := h.writeBack }

/-- Retirement (R13): the slot joins the write-back queue unless a write-back is in flight. -/
def State.retire (s : State) (i : Slot) (h : HeldEntry) : State :=
  let s := s.setEntry i (.retiring h.retired)
  if h.writeBack.isNone then s.setQueue (s.writeBackQueue ++ [i]) else s

/-- The new holder is told (R56): a WAIT head's stalled read completes GRANTED, a QUEUE head is sent HANDOFF. `h` is the
entry after the handoff. -/
def State.tellNew (s : State) (h : HeldEntry) (w : Waiter) (former : Port) : State :=
  match w.mode with
  | .wait _ _ => s.finish w.port (.data (replyWord .granted w.port h.waiters.length h.ticket h.payload))
  | .queue => s.notify w.port { kind := .handoff, other := former, ticketBits := ticketBits h.ticket, address := h.address }

/-- The former holder is told (R57): EXPIRED notice and record, or REVOKED notice, or nothing. `h` is the entry before the
loss, `other` the new holder or, after retirement, the former holder itself, `current` the ticket after the loss. -/
def State.tellFormer (s : State) (cause : LossCause) (h : HeldEntry) (other : Port) (current : Ticket) : State :=
  match cause with
  | .expiry =>
    (s.notify h.holder { kind := .expired, other := other, ticketBits := ticketBits current, address := h.address }).logFault
      { kind := .expired, port := some h.holder, access := .none, logical := none, physical := some h.address
        ticket := some h.ticket }
  | .revoke => s.notify h.holder { kind := .revoked, other := other, ticketBits := ticketBits current, address := h.address }
  | .release => s
  | .offline => s
  | .fenceRevoke => s

/-- The holder of the entry `h` in slot `i` loses the claim (R55): handoff to the head waiter, or retirement. -/
def State.lose (s : State) (cause : LossCause) (i : Slot) (h : HeldEntry) : State :=
  match h.waiters with
  | [] => (s.retire i h).tellFormer cause h h.holder h.ticket
  | w :: rest =>
    let n := h.handTo w rest
    ((s.setEntry i (.held n)).tellNew n w h.holder).tellFormer cause h w.port n.ticket

/-- A port loses the claim on the entry in a slot, if it holds it. -/
def State.loseAt (cause : LossCause) (p : Port) (s : State) (i : Slot) : State :=
  match s.entry i with
  | .held h => if h.holder = p then s.lose cause i h else s
  | _ => s

/-- A port loses every claim it holds, in ascending slot order (R58). -/
def State.loseAll (s : State) (cause : LossCause) (p : Port) : State := s.forSlots (State.loseAt cause p)

/-! ### Removal of waiter records (R59) -/

/-- Remove a port's records from the list of the entry in a slot. -/
def State.removeAt (p : Port) (s : State) (i : Slot) : State :=
  match s.entry i with
  | .held h => s.setEntry i (.held { h with waiters := without h.waiters p })
  | _ => s

/-- Remove every waiter record of a port from every list, in both modes (R59). -/
def State.removeWaiters (s : State) (p : Port) : State := s.forSlots (State.removeAt p)

/-! ### The deadlock check (R50) -/

/-- The slot on whose list a port's WAIT record stands (R54). -/
def State.waitSlot (s : State) (p : Port) : Option Slot :=
  slots.find? fun i => (s.entry i).waiters.any fun w => w.port = p && w.waits

/-- The holder of the entry that a STALLED port waits on; `none` where the port is not STALLED. -/
def State.waitsOn (s : State) (p : Port) : Option Port :=
  if (s.port p).phase.isStalled then
    match s.waitSlot p with
    | some i => match s.entry i with
      | .held h => some h.holder
      | _ => none
    | none => none
  else none

/-- The walk of the deadlock check from a current port, with a number of moves left: has it reached the attempting port? -/
def State.walkFinds (s : State) (p : Port) : Nat → Port → Bool
  | 0, _ => false
  | n + 1, current =>
    match s.waitsOn current with
    | none => false
    | some next => next = p || s.walkFinds p n next

/-- Does a WAIT attempt by `p` on an entry held by `holder` close a cycle? At most three moves (R50). -/
def State.deadlock (s : State) (p holder : Port) : Bool := s.walkFinds p 3 holder

/-! ### Claim attempts (R22 to R32, R47 to R54) -/

/-- Allocate the slot and start the grant fetch (R6): the entry is FETCHING and the port QUEUED. -/
def State.allocate (s : State) (p : Port) (r : Request) (a : PhysAddr) (f : ClaimFields) (i : Slot) : State :=
  (s.setEntry i (.fetching a p .none)).setPhase p
    (.queued { request := r, physical := a, target := .claim f, purpose := .grantFetch })

/-- CONTENDED goes to the holder when an enrolment takes the list from empty to one record (R48). -/
def State.contend (s : State) (p : Port) (h : HeldEntry) : State :=
  if h.waiters.isEmpty then
    s.notify h.holder { kind := .contended, other := p, ticketBits := ticketBits h.ticket, address := h.address }
  else s

/-- Append a waiter record at the tail (R47, R51). -/
def HeldEntry.enrol (h : HeldEntry) (w : Waiter) : HeldEntry := { h with waiters := h.waiters ++ [w] }

/-- Convert a port's record to WAIT in place (R52). -/
def convert (l : List Waiter) (p : Port) (f : ClaimFields) : List Waiter :=
  l.map fun w => if w.port = p then { w with mode := waitMode f.limit, lease := f.lease } else w

/-- The port's read stays pending as a WAIT read (R51, R54). -/
def State.stall (s : State) (p : Port) (r : Request) (a : PhysAddr) (f : ClaimFields) : State :=
  s.setPhase p (.stalled { request := r, physical := a, target := .claim f, purpose := .waitRead })

/-- A HELD reply restarts the lease from the entry's own length (R28, R69). -/
def HeldEntry.renew (h : HeldEntry) : HeldEntry :=
  { h with lease := h.lease.map fun l => { l with remaining := l.length } }

/-- A claim attempt by a port that is not the holder of the HELD entry `h` in slot `i` (R24, R29, R47, R49). -/
def State.attemptHeld (s : State) (p : Port) (r : Request) (a : PhysAddr) (f : ClaimFields) (i : Slot) (h : HeldEntry) :
    State :=
  match f.mode with
  | .wait =>
    if s.deadlock p h.holder then s.reply p (.data (replyWord .deadlock h.holder h.waiters.length h.ticket 0))
    else if enrolled h.waiters p then
      (s.setEntry i (.held { h with waiters := convert h.waiters p f })).stall p r a f
    else
      ((s.setEntry i (.held (h.enrol { port := p, mode := waitMode f.limit, lease := f.lease }))).contend p h).stall p r a f
  | .queue =>
    if enrolled h.waiters p then s.reply p (.data (replyWord .queued h.holder (position h.waiters p) h.ticket 0))
    else
      ((s.setEntry i (.held (h.enrol { port := p, mode := .queue, lease := f.lease }))).contend p h).reply p
        (.data (replyWord .queued h.holder (h.waiters.length + 1) h.ticket 0))
  | .poll =>
    if enrolled h.waiters p then s.reply p (.data (replyWord .queued h.holder (position h.waiters p) h.ticket 0))
    else s.reply p (.data (replyWord .busy h.holder h.waiters.length h.ticket 0))

/-- Revival of the RETIRING entry `r` in slot `i` (R18): the next ticket, the retained payload, the lease of the segment; a
queued write-back is withdrawn, one in flight is marked. -/
def State.revive (s : State) (p : Port) (f : ClaimFields) (i : Slot) (r : RetiringEntry) : State :=
  let s := s.setEntry i (.held
    { address := r.address, holder := p, ticket := r.ticket + 1, payload := r.payload, lease := leaseOf f.lease
      waiters := [], writeBack := r.writeBack.map InFlight.regrant })
  let s := if r.writeBack.isNone then s.setQueue (s.writeBackQueue.filter (· ≠ i)) else s
  s.reply p (.data (replyWord .granted p 0 (r.ticket + 1) r.payload))

/-- A claim attempt is decided against the entry for its physical address (R24). -/
def State.claimRead (s : State) (p : Port) (r : Request) (a : PhysAddr) (f : ClaimFields) : State :=
  match s.lookup a with
  | none =>
    match s.lowestFree with
    | some i => s.allocate p r a f i
    | none => s.reply p (.data (replyWord .full p 0 0 0))
  | some i =>
    match s.entry i with
    | .free => s
    | .fetching _ q _ => s.reply p (.data (replyWord .busy q 0 0 0))
    | .held h =>
      if h.holder = p then
        (s.setEntry i (.held h.renew)).reply p (.data (replyWord .held p h.waiters.length h.ticket h.payload))
      else s.attemptHeld p r a f i h
    | .retiring e => s.revive p f i e
    | .quarantined _ ticket _ => s.reply p (.data (replyWord .broken p 0 ticket 0))

/-! ### Claim-word writes (R36 to R41) -/

/-- A record of a fault on a request with its translated address (R148). -/
def requestFault (kind : FaultKind) (p : Port) (r : Request) (physical : Option PhysAddr) (ticket : Option Ticket) :
    FaultRecord :=
  { kind := kind, port := some p, access := r.direction.field, logical := some r.logical, physical := physical
    ticket := ticket }

/-- A request ends with FAULT at acceptance and a record (R147). -/
def State.refuse (s : State) (kind : FaultKind) (p : Port) (r : Request) (physical : Option PhysAddr)
    (ticket : Option Ticket) : State :=
  (s.logFault (requestFault kind p r physical ticket)).reply p r.direction.fault

/-- Is a port enrolled in QUEUE mode? (R40) -/
def queueEnrolled (l : List Waiter) (p : Port) : Bool := l.any fun w => w.port = p && !w.waits

/-- A full-word claim-word write of `d` is decided against the entry for its address (R37): release, withdrawal or STALE. -/
def State.claimWrite (s : State) (p : Port) (r : Request) (a : PhysAddr) (d : Word) : State :=
  match (s.lookup a).map fun i => (i, s.entry i) with
  | some (i, .held h) =>
    if h.holder = p then
      if ticketOf d = h.ticket then (s.lose .release i { h with payload := payloadOf d }).reply p .written
      else s.refuse .stale p r (some a) (some (ticketOf d))
    else if queueEnrolled h.waiters p then
      (s.setEntry i (.held { h with waiters := without h.waiters p })).reply p .written
    else s.refuse .stale p r (some a) (some (ticketOf d))
  | _ => s.refuse .stale p r (some a) (some (ticketOf d))

/-! ### Views (R33, R34) -/

/-- The view reply word that an entry gives (R33); a FREE entry gives none. -/
def Entry.viewReply (e : Entry) (p : Port) : Option Word :=
  match e with
  | .free => none
  | .fetching _ q _ => some (replyWord .taken q 0 0 0)
  | .held h => some (replyWord .taken h.holder h.waiters.length h.ticket h.payload)
  | .retiring r => some (replyWord .free p 0 r.ticket r.payload)
  | .quarantined _ ticket _ => some (replyWord .broken p 0 ticket 0)

/-- A view is answered from the entry of the word, or, where it has none, becomes a memory read (R33, R34). -/
def State.view (s : State) (p : Port) (r : Request) (a : PhysAddr) : State :=
  match (s.lookup a).bind fun i => (s.entry i).viewReply p with
  | some w => s.reply p (.data w)
  | none => s.setPhase p (.queued { request := r, physical := a, target := .view, purpose := .viewRead })

/-! ### Ticks at the entries (R67, R68, R71, R60) -/

/-- A tick reaches a waiter record: a WAIT record with a wait limit counts, no other does (R67). -/
def Waiter.tick (w : Waiter) : Waiter :=
  match w.mode with
  | .queue => w
  | .wait limit remaining => { w with mode := .wait limit (remaining.map fun n => n - 1) }

/-- A tick decrements every running count of an entry; HELD entries alone have any (R67). A count that it brings to 0 expires
within the same tick (R68). -/
def Entry.tick : Entry → Entry
  | .held h =>
    .held { h with lease := h.lease.map fun l => { l with remaining := l.remaining - 1 }, waiters := h.waiters.map Waiter.tick }
  | e => e

/-- A tick reaches the entry in a slot. -/
def State.tickAt (s : State) (i : Slot) : State := s.setEntry i (s.entry i).tick

/-- The lease of an entry stands at a number. -/
def HeldEntry.leaseAt (h : HeldEntry) (n : Ticks) : Bool := h.lease.any fun l => l.remaining = n

/-- The wait remaining of a record stands at a number. -/
def Waiter.waitAt (w : Waiter) (n : Ticks) : Bool :=
  match w.mode with
  | .wait _ (some m) => m = n
  | _ => false

/-- A lease that a tick has brought to 0 ends its holder's claim by EXPIRY (R71). -/
def State.expireLease (s : State) (i : Slot) : State :=
  match s.entry i with
  | .held h => if h.leaseAt 0 then s.lose .expiry i h else s
  | _ => s

/-- A wait remaining of a port that a tick has brought to 0 in the list of the entry in a slot: the record leaves the list, and
the stalled read completes TIMEOUT (R60). -/
def State.expireWait (s : State) (i : Slot) (p : Port) : State :=
  match s.entry i with
  | .held h =>
    if h.waiters.any fun w => w.port = p && w.waitAt 0 then
      (s.setEntry i (.held { h with waiters := without h.waiters p })).finish p
        (.data (replyWord .timeout h.holder 0 h.ticket 0))
    else s
  | _ => s

/-! ### Grant fetches and write-backs at their completion (R10, R11, R16, R17) -/

/-- The entry becomes FREE, every field but the slot absent. -/
def State.freeSlot (s : State) (i : Slot) : State := s.setEntry i .free

/-- Lease length that a transaction record carries to its grant (R10, R69). -/
def Transaction.lease (t : Transaction) : Ticks :=
  match t.target with
  | .claim f => f.lease
  | _ => 0

/-- The entry of a grant by fetch (R10): the stored ticket plus one, the stored payload, the lease carried in the record. -/
def grantedEntry (a : PhysAddr) (p : Port) (w : Word) (lease : Ticks) : HeldEntry :=
  { address := a, holder := p, ticket := ticketOf w + 1, payload := payloadOf w, lease := leaseOf lease, waiters := []
    writeBack := none }

/-- A record of a fault on a transaction: its logical and physical addresses are those of acceptance (R148). -/
def transactionFault (kind : FaultKind) (p : Port) (t : Transaction) : FaultRecord :=
  requestFault kind p t.request (some t.physical) none

/-- The transaction in flight of a port, if it is IN-MEMORY. -/
def Phase.memoryTransaction : Phase → Option Transaction
  | .inMemory t => some t
  | _ => none

/-- The slot of the FETCHING entry for an address, with its orphan mark. -/
def State.fetchingAt (s : State) (a : PhysAddr) : Option (Slot × OrphanMark) :=
  match (s.lookup a).map fun i => (i, s.entry i) with
  | some (i, .fetching _ _ mark) => some (i, mark)
  | _ => none

/-- A grant fetch of `p` for address `a` completes with data (R10). -/
def State.fetchData (s : State) (p : Port) (a : PhysAddr) (w : Word) : State :=
  match s.fetchingAt a, (s.port p).phase.memoryTransaction with
  | some (i, .none), some t =>
    (s.setEntry i (.held (grantedEntry a p w t.lease))).finish p
      (.data (replyWord .granted p 0 (ticketOf w + 1) (payloadOf w)))
  | some (i, .fenced), some t =>
    ((s.freeSlot i).logFault (transactionFault .fenced p t)).finish p t.request.direction.fault
  | some (i, .offline), _ => s.freeSlot i
  | some (i, _), none => s.freeSlot i
  | none, _ => s

/-- A grant fetch of `p` for address `a` completes with a memory error (R11). -/
def State.fetchError (s : State) (p : Port) (a : PhysAddr) : State :=
  match s.fetchingAt a, (s.port p).phase.memoryTransaction with
  | some (i, .none), some t => ((s.freeSlot i).logFault (transactionFault .memory p t)).finish p t.request.direction.fault
  | some (i, .fenced), some t =>
    (((s.freeSlot i).logFault (transactionFault .memory p t)).logFault (transactionFault .fenced p t)).finish p t.request.direction.fault
  | some (i, .offline), _ =>
    (s.freeSlot i).logFault
      { kind := .memory, port := some p, access := .read, logical := none, physical := some a, ticket := none }
  | some (i, _), none => s.freeSlot i
  | none, _ => s

/-- The entry's slot joins the tail of the write-back queue again, its write-back state QUEUED (R16, R17). -/
def State.requeue (s : State) (i : Slot) (r : RetiringEntry) : State :=
  (s.setEntry i (.retiring { r with writeBack := none })).setQueue (s.writeBackQueue ++ [i])

/-- A write-back of slot `i` completes without error (R16). -/
def State.writeBackDone (s : State) (i : Slot) : State :=
  match s.entry i with
  | .retiring r =>
    match r.writeBack with
    | some f => if f.regranted then s.requeue i r else s.freeSlot i
    | none => s
  | .held h => s.setEntry i (.held { h with writeBack := none })
  | _ => s

/-- A write-back of slot `i` for address `a` completes with a memory error (R17): a WRITEBACK record with the written
ticket, then the entry is quarantined, requeued or left HELD. -/
def State.writeBackError (s : State) (i : Slot) (a : PhysAddr) (written : Ticket) : State :=
  let s := s.logFault { kind := .writeback, port := none, access := .write, logical := none, physical := some a
                        ticket := some written }
  match s.entry i with
  | .retiring r =>
    match r.writeBack with
    | some f => if f.regranted then s.requeue i r else s.setEntry i (.quarantined r.address r.ticket r.payload)
    | none => s
  | .held h => s.setEntry i (.held { h with writeBack := none })
  | _ => s

end Sys2Proof.Machine
end

