-- ==== Sys2Proof/Machine/Access.lean ====
section
/-! DEFINITION. Requests at the master ports: when a request is taken, its routing, plain accesses, notice accesses, the end
of an event, and the meanings of the eight access commands (Chapters 5 to 8). -/

namespace Sys2Proof.Machine

/-! ### Notice accesses (R114, R116) -/

/-- A notice read pops the oldest notice, or returns OVERFLOW and clears the marker, or returns EMPTY (R114). -/
def State.noticePop (s : State) (p : Port) : State :=
  match (s.notice p).queue with
  | n :: rest => (s.setNotice p { s.notice p with queue := rest }).reply p (.data n.word)
  | [] =>
    if (s.notice p).overflow then
      (s.setNotice p { s.notice p with overflow := false }).reply p (.data (noticeWord overflowCode p 0 0))
    else s.reply p (.data (noticeWord emptyCode p 0 0))

/-- A notice control word in lane 0: bit 0 sets the enable flag, bit 1 flushes; without lane 0 nothing changes (R116). -/
def NoticeUnit.control (u : NoticeUnit) (be : Lanes) (d : Word) : NoticeUnit :=
  if be.getLsbD 0 then
    { queue := if d.getLsbD 1 then [] else u.queue, overflow := u.overflow && !d.getLsbD 1, enable := d.getLsbD 0 }
  else u

/-- A notice control write (R116). -/
def State.noticeControl (s : State) (p : Port) (be : Lanes) (d : Word) : State :=
  (s.setNotice p ((s.notice p).control be d)).reply p .written

/-! ### Plain accesses (R96 to R103) -/

/-- The access check refuses a write through a READ-ONLY segment (R100). -/
def accessRefused (dir : Direction) (access : PlainAccess) : Bool :=
  match dir, access with
  | .write _, .readOnly => true
  | .write _, .readWrite => false
  | .read, _ => false

/-- The guard check applies to writes, and to reads where guard reads too is set (R101). -/
def guardApplies (dir : Direction) (g : Guard) : Bool :=
  match dir with
  | .write _ => true
  | .read => g.readsToo

/-- The guard check refuses an access whose guard word is not HELD by the accessing port (R101). -/
def State.guardRefused (s : State) (p : Port) (dir : Direction) (guard : Option Guard) : Bool :=
  guard.any fun g => guardApplies dir g && !s.guardQuery p g.address

/-- Purpose of a plain access by its direction. -/
def plainPurpose : Direction → Purpose
  | .read => .plainRead
  | .write _ => .plainWrite

/-- A plain access: access check, guard check, then queued for the memory port (R96). -/
def State.plain (s : State) (p : Port) (r : Request) (a : PhysAddr) (access : PlainAccess) (guard : Option Guard) : State :=
  if accessRefused r.direction access then s.refuse .denied p r (some a) none
  else if s.guardRefused p r.direction guard then s.refuse .guard p r (some a) none
  else
    s.setPhase p (.queued { request := r, physical := a, target := .plain access guard
                            purpose := plainPurpose r.direction })

/-! ### Acceptance (R123, R124, R126, R84) -/

/-- A write through a CLAIM segment: partial writes are refused DENIED, full-word writes reach the claim unit (R36). -/
def State.claimSegmentWrite (s : State) (p : Port) (r : Request) (a : PhysAddr) (d : Word) : State :=
  if r.enables = allLanes then s.claimWrite p r a d else s.refuse .denied p r (some a) none

/-- A request is routed by the kind its translation hands over, and by its direction (R83, R84). -/
def State.routeRequest (s : State) (p : Port) (r : Request) : State :=
  match (s.map p).translate r.logical with
  | .unmapped => s.refuse .unmapped p r none none
  | .notice =>
    match r.direction with
    | .read => s.noticePop p
    | .write d => s.noticeControl p r.enables d
  | .memory a (.plain access guard) => s.plain p r a access guard
  | .memory a (.claim f) =>
    match r.direction with
    | .read => s.claimRead p r a f
    | .write d => s.claimSegmentWrite p r a d
  | .memory a .view =>
    match r.direction with
    | .read => s.view p r a
    | .write _ => s.refuse .denied p r (some a) none

/-- The presented request of a port, as its input pins show it. -/
def State.setPresented (s : State) (p : Port) (r : Option Request) : State := s.setPort p { s.port p with presented := r }

/-- A request is taken: at a FENCED port it is answered FAULT FENCED without translation (R126), at an ONLINE port it is
translated and routed. -/
def State.take (s : State) (p : Port) (r : Request) : State :=
  let s := s.setPresented p none
  if (s.port p).fence then s.refuse .fenced p r none none else s.routeRequest p r

/-- A master presents a request (R123): taken if the port takes requests, else it stays presented; a master in reset
presents nothing (R123, R129). -/
def State.present (s : State) (p : Port) (r : Request) : State :=
  if (s.port p).resetAsserted then s
  else if s.takes p then s.take p r
  else s.setPresented p (some r)

/-- A read request. -/
def readRequest (a : LogAddr) (be : Lanes) : Request := { direction := .read, logical := a, enables := be }

/-- A write request. -/
def writeRequest (a : LogAddr) (be : Lanes) (d : Word) : Request := { direction := .write d, logical := a, enables := be }

/-! ### Waiting requests (R123, R135, R165) -/

/-- The requests that wait at the ports where the last of the three conditions has come to hold since the state `before`. -/
def State.ready (s before : State) : List (Port × Request) :=
  (List.finRange 4).filterMap fun p =>
    if s.takes p && !before.takes p then (s.port p).presented.map fun r => (p, r) else none

/-- Take at most `fuel` waiting requests, each against the state that the ones before it leave, in a free order (log 12). -/
def State.takeReadyWithin (before : State) : Nat → State → State
  | 0, s => s
  | fuel + 1, s =>
    match (s.ready before)[s.choose (s.ready before).length]? with
    | some (p, r) => State.takeReadyWithin before fuel ((s.chosen (s.ready before).length).take p r)
    | none => s

/-- The end of an event that began in the state `before`: a request that waits is taken when the last of the three conditions
comes to hold at its port, against the state in force at that moment (R123). A port has one request at most. -/
def State.takeReady (s before : State) : State := State.takeReadyWithin before 4 s

/-! ### Responses of the link unit (R158, R173) -/

/-- Place a response in the slot and mark it READY (R158). -/
def State.respond (s : State) (seq : Byte) (status : ResponseStatus) (payload : List Byte) : State :=
  s.setLink { s.link with slot := some { status := status, seq := seq, payload := payload } }

/-- The command completes with DONE. -/
def State.done (s : State) (seq : Byte) (payload : List Byte) : State := s.respond seq .done payload

/-! ### The end of an event (R123, R164) -/

/-- The end of a drain (R164): at a moment when every port is drained, QUIESCED, command state IDLE and the response READY.
Where no drain is in process, or some port is not drained, nothing happens (log 13). -/
def State.drainEnd (s : State) : State :=
  match s.link.process with
  | some seq =>
    if s.quiesce = .draining && s.allDrained then
      ((s.setQuiesce .quiesced).setLink { s.link with process := none }).done seq []
    else s
  | none => s

/-- The end of an event that began in the state `before`: where it has changed the ports' phases so that every port is drained, a
drain in process ends (R164); and requests that waited for it are taken (R123). -/
def State.endEvent (s before : State) : State :=
  if before.allDrained then s.takeReady before else s.drainEnd.takeReady before

/-! ### The meanings of the access commands -/

/-- A write access: a release can end the stall of another port, whose waiting request is then taken (R56, R123). -/
def State.presentWrite (s : State) (p : Port) (r : Request) : State := (s.present p r).endEvent s

/-- CLAIM_ATTEMPT: a read, which is a claim attempt where the map covers its address by a CLAIM segment (R22, R24, R84). -/
def execClaimAttempt (p : Port) (a : LogAddr) (be : Lanes) (s : State) : Host.Outcome State Fault Refusal :=
  .next (s.present p (readRequest a be))

/-- CLAIM_WORD_WRITE: a write, which is a claim-word write where the address falls in a CLAIM segment (R36, R37, R84). -/
def execClaimWordWrite (p : Port) (a : LogAddr) (be : Lanes) (d : Word) (s : State) : Host.Outcome State Fault Refusal :=
  .next (s.presentWrite p (writeRequest a be d))

/-- VIEW_READ: a read, which is a view where the address falls in a VIEW segment (R33, R34, R84). -/
def execViewRead (p : Port) (a : LogAddr) (be : Lanes) (s : State) : Host.Outcome State Fault Refusal :=
  .next (s.present p (readRequest a be))

/-- VIEW_WRITE: a write, which is refused DENIED where the address falls in a VIEW segment (R35, R84). -/
def execViewWrite (p : Port) (a : LogAddr) (be : Lanes) (d : Word) (s : State) : Host.Outcome State Fault Refusal :=
  .next (s.presentWrite p (writeRequest a be d))

/-- PLAIN_READ: a read, which is a plain read where the address falls in a PLAIN segment or the port is OPEN (R96, R97). -/
def execPlainRead (p : Port) (a : LogAddr) (be : Lanes) (s : State) : Host.Outcome State Fault Refusal :=
  .next (s.present p (readRequest a be))

/-- PLAIN_WRITE: a write, which is a plain write where the address falls in a PLAIN segment or the port is OPEN (R96, R98). -/
def execPlainWrite (p : Port) (a : LogAddr) (be : Lanes) (d : Word) (s : State) : Host.Outcome State Fault Refusal :=
  .next (s.presentWrite p (writeRequest a be d))

/-- NOTICE_READ: a read, which pops the notice queue where the address falls in the NOTICE segment (R114, R84). -/
def execNoticeRead (p : Port) (a : LogAddr) (be : Lanes) (s : State) : Host.Outcome State Fault Refusal :=
  .next (s.present p (readRequest a be))

/-- NOTICE_CONTROL_WRITE: a write, which is a control write where the address falls in the NOTICE segment (R116, R84). -/
def execNoticeControlWrite (p : Port) (a : LogAddr) (be : Lanes) (d : Word) (s : State) :
    Host.Outcome State Fault Refusal :=
  .next (s.presentWrite p (writeRequest a be d))

end Sys2Proof.Machine
end

