-- ==== Sys2Proof/Machine/MemoryUnit.lean ====
section
/-! DEFINITION. The memory port unit: requesters, the arbiter, the operation in flight and its completion (Chapter 9), and the
meanings of ARBITER_GRANT and of the four completions. -/

namespace Sys2Proof.Machine

/-! ### The arbiter (R139 to R142) -/

/-- The cyclic order of search, from the requester after the one the pointer names (R140). -/
def searchOrder : Requester → List Requester
  | .port 0 => [.port 1, .port 2, .port 3, .writeBack, .port 0]
  | .port 1 => [.port 2, .port 3, .writeBack, .port 0, .port 1]
  | .port 2 => [.port 3, .writeBack, .port 0, .port 1, .port 2]
  | .port 3 => [.writeBack, .port 0, .port 1, .port 2, .port 3]
  | .writeBack => [.port 0, .port 1, .port 2, .port 3, .writeBack]

/-- The memory request of a QUEUED port. -/
def Phase.queuedTransaction : Phase → Option Transaction
  | .queued t => some t
  | _ => none

/-- Is a requester present at the arbiter? A port while it is QUEUED, the write-back requester while its queue is not empty
(R139). -/
def State.requests (s : State) : Requester → Bool
  | .port p => (s.port p).phase.queuedTransaction.isSome
  | .writeBack => !s.writeBackQueue.isEmpty

/-- The requester that the next grant goes to (R140). -/
def State.nextGrant (s : State) : Option Requester := (searchOrder s.memPort.pointer).find? s.requests

/-- The work of a port's operation (R137): a write carries the enables and data of its request. -/
def Transaction.work (t : Transaction) : PortWork :=
  match t.purpose, t.request.direction with
  | .plainWrite, .write d => .plainWrite t.request.enables d
  | .grantFetch, _ => .grantFetch
  | .viewRead, _ => .viewRead
  | _, _ => .plainRead

/-- Issue a port's operation: the record is made and the phase becomes IN-MEMORY (R141). -/
def State.issue (s : State) (p : Port) (t : Transaction) : State :=
  (s.setOperation (some (.ofPort p t.work t.physical false))).setPhase p (.inMemory t)

/-- A grant to a port (R141): a plain write whose word has an entry is refused CLAIMWORD and consumes the grant (R142, R105);
anything else is issued. -/
def State.grantPort (s : State) (p : Port) (t : Transaction) : State :=
  if t.purpose = .plainWrite && s.occupied t.physical then
    (s.logFault (transactionFault .claimword p t)).finish p t.request.direction.fault
  else s.issue p t

/-- A grant to the write-back requester (R15): the head slot leaves the queue, its ticket and payload are captured, and the
write of the claim word is issued. -/
def State.grantWriteBack (s : State) : State :=
  match s.writeBackQueue with
  | [] => s
  | i :: rest =>
    let s := s.setQueue rest
    match s.entry i with
    | .retiring r =>
      (s.setOperation (some (.ofWriteBack i r.address (claimWord r.ticket r.payload)))).setEntry i
        (.retiring { r with writeBack := some { written := r.ticket, regranted := false } })
    | _ => s

/-- Set the round-robin pointer (R140). -/
def State.setPointer (s : State) (q : Requester) : State := { s with memPort := { s.memPort with pointer := q } }

/-- A grant sets the pointer to the granted requester and acts on its request (R140, R141). -/
def State.grant (s : State) (q : Requester) : State :=
  match q with
  | .port p =>
    match (s.port p).phase.queuedTransaction with
    | some t => (s.setPointer q).grantPort p t
    | none => s
  | .writeBack => (s.setPointer q).grantWriteBack

/-- The arbiter makes a grant when the memory port is idle and a requester is present (R140), and not while the part reset
input is asserted (R146). Where there is no occasion for a grant nothing happens (log 13). -/
def State.arbitrate (s : State) : State :=
  if s.partReset || s.memPort.operation.isSome then s
  else match s.nextGrant with
    | some q => s.grant q
    | none => s

/-! ### Completions (R138, R143, R144) -/

/-- Address, enabled lanes and data of an operation that writes. -/
def Operation.writes : Operation → Option (PhysAddr × Lanes × Word)
  | .ofPort _ (.plainWrite be d) a _ => some (a, be, d)
  | .ofPort _ _ _ _ => none
  | .ofWriteBack _ a d => some (a, allLanes, d)

/-- Physical address of an operation. -/
def Operation.address : Operation → PhysAddr
  | .ofPort _ _ a _ => a
  | .ofWriteBack _ a _ => a

/-- The bank's part of a completion (R138): a write without error changes the enabled lanes; after a write with an error the
word is the memory's own matter, a free value (log 4); a read changes nothing. -/
def State.perform (s : State) (op : Operation) (error : Bool) : State :=
  match op.writes with
  | none => s
  | some (a, be, d) =>
    if error then
      (s.setBank (writeWord s.bank a allLanes (Config.failedWriteWord s.freeIndex))).useFree
    else s.setBank (writeWord s.bank a be d)

/-- The completion of a plain or view operation at its port unit (R108, R34): FAULT MEMORY with a MEMORY record, or the
reply. -/
def State.portDone (s : State) (p : Port) (error : Bool) (r : Reply) : State :=
  match (s.port p).phase.memoryTransaction with
  | some t => if error then (s.logFault (transactionFault .memory p t)).finish p t.request.direction.fault else s.finish p r
  | none => s

/-- The completion of a port's operation goes to the block that waits for it (R143); a given-up plain or view operation is
discarded. `w` is the word read. -/
def State.routePort (s : State) (p : Port) (work : PortWork) (a : PhysAddr) (givenUp error : Bool) (w : Word) : State :=
  match work with
  | .plainRead => if givenUp then s else s.portDone p error (.data w)
  | .plainWrite _ _ => if givenUp then s else s.portDone p error .written
  | .viewRead =>
    if givenUp then s else s.portDone p error (.data (replyWord .free p 0 (ticketOf w) (payloadOf w)))
  | .grantFetch => if error then s.fetchError p a else s.fetchData p a w

/-- Is the completion decided at a claim-table entry (R143)? A fetch's and a write-back's are. -/
def Operation.atEntry : Operation → Bool
  | .ofPort _ .grantFetch _ _ => true
  | .ofPort _ _ _ _ => false
  | .ofWriteBack _ _ _ => true

/-- Would the next grant, made now, refuse a plain write CLAIMWORD (R142)? -/
def State.refusesNext (s : State) : Bool :=
  !s.partReset && s.memPort.operation.isNone &&
    match s.nextGrant with
    | some (.port p) => (s.port p).phase.queuedTransaction.any fun t => t.purpose = .plainWrite && s.occupied t.physical
    | _ => false

/-- Grants made before a completion is decided at its entry, at most `fuel` of them. While the next grant would refuse a plain
write, a free value decides whether that grant with its query comes first (R143, R106). A refused grant is consumed and the next
one made at once (R142), for which the free value decides anew. That the choice is free for each of them in turn, and also where
one of them goes to a write to another word with an entry, is the model's reading of "granted next" in R143 (log 22). -/
def State.queriesFirst : Nat → State → State
  | 0, s => s
  | fuel + 1, s =>
    if s.refusesNext then
      if s.choose 2 = 0 then s.chosen 2 else State.queriesFirst fuel (s.chosen 2).arbitrate
    else s

/-- The events that reach one entry when a fetch or write-back completes and plain writes to its word are granted next: the
completion and the occupancy queries. Each query may be before or after the completion (R143, R106, log 22). A refused write
leaves its port IDLE, so four grants at most come first. -/
def State.raceAtEntry (s : State) (op : Operation) : State := if op.atEntry then State.queriesFirst 4 s else s

/-- The bank completes the operation in flight: the record is discarded, the memory port becomes idle, and the completion goes
to the block that waits for it (R143). A completion while none is in flight is disregarded (R146). -/
def State.complete (s : State) (error : Bool) : State :=
  match s.memPort.operation with
  | none => s
  | some op =>
    let w := readWord s.bank op.address
    let s := ((s.setOperation none).raceAtEntry op).perform op error
    match op with
    | .ofPort p work a givenUp => s.routePort p work a givenUp error w
    | .ofWriteBack i a d => if error then s.writeBackError i a (ticketOf d) else s.writeBackDone i

/-! ### The meanings; each event may end a drain, and lets a port that becomes IDLE take its waiting request (R164, R123) -/

/-- ARBITER_GRANT (R140). -/
def execArbiterGrant (s : State) : Host.Outcome State Fault Refusal := .next (s.arbitrate.endEvent s)

/-- PLAIN_ACCESS_COMPLETION: the bank's completion, which is a plain access's where one is in flight (R143, R108). -/
def execPlainAccessCompletion (error : Bool) (s : State) : Host.Outcome State Fault Refusal := .next ((s.complete error).endEvent s)

/-- VIEW_READ_COMPLETION: the bank's completion, which is a view's where one is in flight (R143, R34). -/
def execViewReadCompletion (error : Bool) (s : State) : Host.Outcome State Fault Refusal := .next ((s.complete error).endEvent s)

/-- GRANT_FETCH_COMPLETION: the bank's completion, which is a grant fetch's where one is in flight (R143, R10, R11). -/
def execGrantFetchCompletion (error : Bool) (s : State) : Host.Outcome State Fault Refusal := .next ((s.complete error).endEvent s)

/-- WRITE_BACK_COMPLETION: the bank's completion, which is a write-back's where one is in flight (R143, R16, R17). -/
def execWriteBackCompletion (error : Bool) (s : State) : Host.Outcome State Fault Refusal := .next ((s.complete error).endEvent s)

end Sys2Proof.Machine
end

