-- ==== Sys2Proof/Machine/Resets.lean ====
section
/-! DEFINITION. Port reset, the fence at a port, and part reset (Chapter 8 and R5, R78, R121, R146, R154, R170), with the
meanings of the four reset commands. -/

namespace Sys2Proof.Machine

/-! ### What a reset or a fence does to a transaction (R127, R131) -/

/-- A QUEUED request is withdrawn from the arbiter; a grant fetch frees its entry (R9). -/
def State.withdraw (s : State) (t : Transaction) : State :=
  if t.purpose = .grantFetch then
    match s.fetchingAt t.physical with
    | some (i, _) => s.freeSlot i
    | none => s
  else s

/-- Orphan mark after a fence reaches an IN-MEMORY fetch (R8). -/
def OrphanMark.fence : OrphanMark → OrphanMark
  | .none => .fenced
  | m => m

/-- Set the orphan mark of the FETCHING entry for an address (R8). -/
def State.orphan (s : State) (a : PhysAddr) (f : OrphanMark → OrphanMark) : State :=
  match (s.lookup a).map fun i => (i, s.entry i) with
  | some (i, .fetching a' q mark) => s.setEntry i (.fetching a' q (f mark))
  | _ => s

/-- Set the given-up mark of an operation of a port (R143). -/
def Operation.giveUp (p : Port) : Operation → Operation
  | .ofPort q work a g => .ofPort q work a (g || q = p)
  | .ofWriteBack i a d => .ofWriteBack i a d

/-- The port unit gives up its plain or view operation in flight (R127, R143). -/
def State.giveUp (s : State) (p : Port) : State :=
  s.setOperation (s.memPort.operation.map (Operation.giveUp p))

/-- Assertion of the reset input ends the port's transaction, without a completion (R127). -/
def State.endByReset (s : State) (p : Port) : State :=
  match (s.port p).phase with
  | .idle => s
  | .queued t => (s.withdraw t).setPhase p .idle
  | .inMemory t =>
    (if t.purpose = .grantFetch then s.orphan t.physical fun _ => .offline else s.giveUp p).setPhase p .idle
  | .stalled _ => s.setPhase p .idle

/-- A fence completes a transaction with FAULT FENCED and a FENCED record (R131, R59). -/
def State.fenceOff (s : State) (p : Port) (t : Transaction) : State :=
  (s.logFault (transactionFault .fenced p t)).finish p t.request.direction.fault

/-- A fence ends or marks the port's transaction (R131). -/
def State.endByFence (s : State) (p : Port) : State :=
  match (s.port p).phase with
  | .idle => s
  | .queued t => (s.withdraw t).fenceOff p t
  | .inMemory t => if t.purpose = .grantFetch then s.orphan t.physical OrphanMark.fence else s
  | .stalled t => s.fenceOff p t

/-- FENCE of a port, with or without revoke (R131, R132): the flag, the transaction, the waiter records, and with revoke the
claims. -/
def State.fencePort (s : State) (p : Port) (revoke : Bool) : State :=
  let s := s.setPort p { s.port p with fence := true }
  let s := (s.endByFence p).removeWaiters p
  if revoke then s.loseAll .fenceRevoke p else s

/-- UNFENCE of a port (R133). -/
def State.unfencePort (s : State) (p : Port) : State := s.setPort p { s.port p with fence := false }

/-! ### Port reset (R127, R128, R130) -/

/-- Assertion of a port's reset input: the transaction, then the notices, the waiter records and the claims (R127, R128,
R120). Its master ceases to present its request (R123). An input already asserted is not asserted again (log 13). -/
def State.assertReset (s : State) (p : Port) : State :=
  if (s.port p).resetAsserted then s
  else
    let s := s.setPort p { s.port p with resetAsserted := true, presented := none }
    (((s.endByReset p).setNotice p NoticeUnit.empty).removeWaiters p).loseAll .offline p

/-- Deassertion of a port's reset input (R130). -/
def State.deassertReset (s : State) (p : Port) : State := s.setPort p { s.port p with resetAsserted := false }

/-! ### Part reset (R5, R65, R78, R121, R136, R146, R154, R170) -/

/-- Part reset abandons the operation in flight: a write has been performed or not, a free value (R146, log 5). -/
def State.abandon (s : State) : State :=
  match s.memPort.operation.bind Operation.writes with
  | some (a, be, d) =>
    (s.setBank (if Config.abandonedWriteTaken s.freeIndex then writeWord s.bank a be d else s.bank)).useFree
  | none => s

/-- Part reset at a port: phase IDLE, fence flag clear; the input pins and the completions given stand (R136). -/
def PortUnit.partReset (u : PortUnit) : PortUnit := { u with phase := .idle, fence := false }

/-- A selection in progress is abandoned, and disregarded until its release (R170). -/
def Link.partReset (l : Link) : Link :=
  { process := none, slot := none, outcome := .none
    selection := l.selection.map fun sel => { sel with disregarded := true }, sdo := l.sdo }

/-- Assertion of the part reset input. -/
def State.assertPartReset (s : State) : State :=
  let s := s.abandon
  { s with
    ports := #v[(s.port 0).partReset, (s.port 1).partReset, (s.port 2).partReset, (s.port 3).partReset]
    maps := State.reset.maps
    table := State.reset.table
    writeBackQueue := []
    notices := State.reset.notices
    divisor := 10
    divider := 10
    memPort := State.reset.memPort
    log := State.reset.log
    link := s.link.partReset
    quiesce := .running
    partReset := true }

/-! ### The meanings -/

/-- PORT_RESET_ASSERTED (R127, R128). -/
def execPortResetAsserted (p : Port) (s : State) : Host.Outcome State Fault Refusal := .next ((s.assertReset p).endEvent s)

/-- PORT_RESET_DEASSERTED (R130). -/
def execPortResetDeasserted (p : Port) (s : State) : Host.Outcome State Fault Refusal := .next ((s.deassertReset p).endEvent s)

/-- PART_RESET: the part reset input is asserted (R136 and the reset paragraph of each chapter). -/
def execPartReset (s : State) : Host.Outcome State Fault Refusal := .next s.assertPartReset

/-- PART_RESET_RELEASED: the part reset input is released (R170, R146, R65). -/
def execPartResetReleased (s : State) : Host.Outcome State Fault Refusal :=
  .next (State.endEvent { s with partReset := false } s)

end Sys2Proof.Machine
end

