-- ==== Sys2Proof/Machine/TimeBase.lean ====
section
/-! DEFINITION. The time base: TBCLK periods, ticks and the expiries they cause (Chapter 4), and the meanings of TBCLK_PERIOD,
TICK, LEASE_EXPIRY and WAIT_EXPIRY. -/

namespace Sys2Proof.Machine

/-! ### A tick at the entries (R67, R68, R76) -/

/-- A count that a tick has brought to 0: the lease in a slot, or the wait of a port on the list of a slot. -/
inductive Expiry where
  | lease (i : Slot)
  | wait (i : Slot) (p : Port)
  deriving DecidableEq, Repr

/-- The counts of an entry that stand at 0. -/
def Entry.expiries (e : Entry) (i : Slot) : List Expiry :=
  match e with
  | .held h =>
    (if h.leaseAt 0 then [.lease i] else [])
      ++ (h.waiters.filter fun w => w.waitAt 0).map fun w => .wait i w.port
  | _ => []

/-- The counts that a tick has brought to 0 and that have not expired yet. -/
def State.expiries (s : State) : List Expiry := slots.flatMap fun i => (s.entry i).expiries i

/-- A count expires (R71, R60). -/
def State.expire (s : State) : Expiry → State
  | .lease i => s.expireLease i
  | .wait i p => s.expireWait i p

/-- Take all the expiries of a tick, at most `fuel` of them, in an order that the spec does not fix (R76, R61; log 12). -/
def State.expireAll : Nat → State → State
  | 0, s => s
  | fuel + 1, s =>
    match s.expiries[s.choose s.expiries.length]? with
    | some e => State.expireAll fuel ((s.chosen s.expiries.length).expire e)
    | none => s

/-- A tick is taken whole at every entry: each running count decrements, and those that reach 0 expire, `first` before the
others if it is one of them (R67, R68; log 11). -/
def State.takeTick (s : State) (first : Option Expiry) : State :=
  let s := s.forSlots State.tickAt
  let s := first.elim s s.expire
  State.expireAll s.expiries.length s

/-! ### TBCLK periods (R65) -/

/-- A TBCLK period produces a tick where it finds the divider count at 1; while the part reset input is asserted the count
does not run (R65, log 10). -/
def State.ticks (s : State) : Bool := !s.partReset && s.divider = 1

/-- A TBCLK period that produces a tick: the divider count is reloaded and the tick is taken. A waiting request of a port whose
stall ends is then taken (R123). -/
def State.tick (s : State) (first : Option Expiry) : State := ((s.setDivider s.divisor).takeTick first).endEvent s

/-- A TBCLK period (R65). -/
def State.tbclk (s : State) : State :=
  if s.ticks then s.tick none else if s.partReset then s else s.setDivider (s.divider - 1)

/-- The next tick brings the lease in a slot to 0. -/
def State.leaseEnds (s : State) (i : Slot) : Bool :=
  match s.entry i with
  | .held h => h.leaseAt 1
  | _ => false

/-- The slot on whose list the next tick brings a wait of a port to 0. -/
def State.waitEnds (s : State) (p : Port) : Option Slot :=
  slots.find? fun i => (s.entry i).waiters.any fun w => w.port = p && w.waitAt 1

/-! ### The meanings -/

/-- TBCLK_PERIOD: a TBCLK period (R65). -/
def execTbclkPeriod (s : State) : Host.Outcome State Fault Refusal := .next s.tbclk

/-- TICK: a TBCLK period, which produces a tick where it finds the divider count at 1 (R65, R67, log 8). -/
def execTick (s : State) : Host.Outcome State Fault Refusal := .next s.tbclk

/-- LEASE_EXPIRY of the entry in a slot: the TBCLK period whose tick brings its lease to 0, that expiry taken before the tick's
other expiries (R71, R61, R76; log 11). Where the next period brings no such expiry nothing happens (log 13). -/
def execLeaseExpiry (i : Slot) (s : State) : Host.Outcome State Fault Refusal :=
  .next (if s.ticks && s.leaseEnds i then s.tick (some (.lease i)) else s)

/-- WAIT_EXPIRY of a port: the TBCLK period whose tick brings its wait to 0, that expiry taken before the tick's other expiries
(R60, R61, R76; log 11). Where the next period brings no such expiry nothing happens (log 13). -/
def execWaitExpiry (p : Port) (s : State) : Host.Outcome State Fault Refusal :=
  .next (match s.waitEnds p with
    | some i => if s.ticks then s.tick (some (.wait i p)) else s
    | none => s)

end Sys2Proof.Machine
end

