-- ==== Sys2Proof/Machine/Supervisor.lean ====
section
/-! DEFINITION. The supervisor commands once their frame is accepted (Chapters 5, 10 and 11), and the meanings of the command
rows. -/

namespace Sys2Proof.Machine

/-! ### Refusals (R158, R173) -/

/-- The command completes REFUSED with a reason and an empty payload; nothing else changes (R158, R173). -/
def State.refused (s : State) (seq : Byte) (r : Reason) : State := s.respond seq (.refused r) []

/-! ### The map commands (R87, R91, R93, R94) -/

/-- Payload of a refused MAP-LOAD: the record named, or FFH (R173). -/
def recordByte : Option Nat → Byte
  | some n => countByte n
  | none => 0xFF

/-- MAP-LOAD (R87, R91): the checks, then the installation. -/
def State.mapLoad (s : State) (seq port count : Byte) (records : List Byte) : State :=
  match portOfByte port, mapLoadFault port count records with
  | some p, none => (s.setMap p (.mapped (segmentsOf records))).done seq []
  | _, some (r, n) => s.respond seq (.refused r) [recordByte n]
  | none, none => s.respond seq (.refused .field) [recordByte none]

/-- Payload of a MAP-READ response: mode, count, records (R94, section 12.3). -/
def PortMap.readPayload : PortMap → List Byte
  | .openMode => [0, 0]
  | .mapped l => 1 :: countByte l.length :: l.flatMap Segment.bytes

/-- A command on the port that its port byte names, or FIELD (R160). -/
def State.onPort (s : State) (seq port : Byte) (f : Port → State) : State :=
  match portOfByte port with
  | some p => f p
  | none => s.refused seq .field

/-- FENCE (R163): port 0 to 3, revoke flag 0 or 1, else FIELD. A waiting request of a port that becomes IDLE is taken (R123). -/
def State.fenceCommand (s : State) (seq port revoke : Byte) : State :=
  match portOfByte port with
  | some p => if 1 < revoke.toNat then s.refused seq .field else ((s.fencePort p (revoke = 1)).done seq []).endEvent s
  | none => s.refused seq .field

/-! ### Quiesce (R164, R165) -/

/-- QUIESCE: at once where every port is drained or the part is QUIESCED, else a drain in process (R164). -/
def State.quiesceCommand (s : State) (seq : Byte) : State :=
  if s.quiesce = .quiesced || s.allDrained then (s.setQuiesce .quiesced).done seq []
  else (s.setQuiesce .draining).setLink { s.link with process := some seq }

/-- RESUME (R165): RUNNING, and each IDLE port takes its waiting request (R135, R123). -/
def State.resumeCommand (s : State) (seq : Byte) : State := ((s.setQuiesce .running).done seq []).endEvent s

/-! ### Claim commands, log and time (R166 to R169, R151, R66) -/

/-- The slots that a CLAIM-LIST returns: non-FREE, from the first slot named, ascending, at most the maximum (R166). -/
def State.listed (s : State) (first : Slot) (maximum : Nat) : List Slot :=
  (slots.filter fun i => first ≤ i && s.entry i ≠ .free).take maximum

/-- CLAIM-LIST (R166). -/
def State.claimList (s : State) (seq first maximum : Byte) : State :=
  match slotOfByte first with
  | some i =>
    if 8 < maximum.toNat then s.refused seq .field
    else
      let l := s.listed i maximum.toNat
      s.done seq (countByte l.length :: l.flatMap fun j => claimRecord j (s.entry j))
  | none => s.refused seq .field

/-- Payload of a CLAIM-REVOKE response: state after the loss, new holder, ticket now current (R167, section 12.3). -/
def Entry.revokePayload : Entry → List Byte
  | .held h => [2, countByte h.holder.val, h.ticket]
  | .retiring r => [3, 0, r.ticket]
  | _ => [0, 0, 0]

/-- CLAIM-REVOKE (R167). A waiting request of a port whose stall ends is taken (R123). -/
def State.claimRevoke (s : State) (seq slot : Byte) (addr : BitVec 24) (ticket : Byte) : State :=
  match slotOfByte slot with
  | some i =>
    if 0x3FFFFF < addr.toNat then s.refused seq .field
    else match s.entry i with
      | .held h =>
        if h.address ≠ addr.setWidth 22 then s.refused seq .notHeld
        else if h.ticket ≠ ticket then s.refused seq .ticket
        else
          let t := s.lose .revoke i h
          (t.done seq (t.entry i).revokePayload).endEvent s
      | _ => s.refused seq .notHeld
  | none => s.refused seq .field

/-- CLAIM-CLEAR (R168, R20). -/
def State.claimClear (s : State) (seq slot : Byte) : State :=
  match slotOfByte slot with
  | some i =>
    match s.entry i with
    | .quarantined _ _ _ => (s.freeSlot i).done seq []
    | _ => s.refused seq .notQuarantined
  | none => s.refused seq .field

/-- LOG-READ (R151): the oldest records, at most the maximum, leave the log; the dropped count is returned and zeroed. -/
def State.logRead (s : State) (seq maximum : Byte) : State :=
  if 16 < maximum.toNat then s.refused seq .field
  else
    let taken := s.log.records.take maximum.toNat
    (s.setLog { records := s.log.records.drop maximum.toNat, dropped := 0 }).done seq
      (countByte taken.length :: s.log.dropped :: taken.flatMap FaultRecord.bytes)

/-- TIME-SET (R66): the divisor is replaced and the divider count reloaded; 0 is refused. -/
def State.timeSet (s : State) (seq : Byte) (divisor : Ticks) : State :=
  if divisor = 0 then s.refused seq .field
  else ({ s with divisor := divisor, divider := divisor }).done seq []

/-! ### Acceptance (R157, R158) -/

/-- Set the last-frame outcome (R159). -/
def State.setOutcome (s : State) (o : FrameOutcome) : State := s.setLink { s.link with outcome := o }

/-- Carry out an accepted command (R160 to R169). -/
def State.carryOut (s : State) (seq : Byte) : Command → State
  | .status => s.done seq s.statusPayload
  | .mapLoad port count records => s.mapLoad seq port count records
  | .mapRead port => s.onPort seq port fun p => s.done seq (s.map p).readPayload
  | .mapOpen port => s.onPort seq port fun p => (s.setMap p .openMode).done seq []
  | .fence port revoke => s.fenceCommand seq port revoke
  | .unfence port => s.onPort seq port fun p => (s.unfencePort p).done seq []
  | .quiesce => s.quiesceCommand seq
  | .resume => s.resumeCommand seq
  | .claimList first maximum => s.claimList seq first maximum
  | .claimRevoke slot addr ticket => s.claimRevoke seq slot addr ticket
  | .claimClear slot => s.claimClear seq slot
  | .logRead maximum => s.logRead seq maximum
  | .timeSet divisor => s.timeSet seq divisor
  | .unknown _ => s.refused seq .command

/-- Acceptance empties the response slot, sets the outcome ACCEPTED and starts the command (R157, R158). -/
def State.start (s : State) (seq : Byte) (c : Command) : State :=
  State.carryOut (s.setLink { s.link with slot := none, outcome := .accepted }) seq c

/-- A frame with a good check byte is taken (R157): rejected while a command is in process, then by its length (`none`: the
payload has not the length the command requires), else accepted. The link takes nothing in part reset (R170). -/
def State.takeFrame (s : State) (seq : Byte) (c : Option Command) : State :=
  if s.partReset then s
  else if s.link.process.isSome then s.setOutcome .rejectedBusy
  else match c with
    | none => s.setOutcome .rejectedLength
    | some c => s.start seq c

/-! ### The meanings of the command rows: a good frame of the command is taken (log 15) -/

/-- STATUS (R161). -/
def execStatus (seq : Byte) (s : State) : Host.Outcome State Fault Refusal := .next (s.takeFrame seq (some .status))

/-- MAP_LOAD (R87, R91, R162); the frame's length check is that of R160. -/
def execMapLoad (seq port count : Byte) (records : List Byte) (s : State) : Host.Outcome State Fault Refusal :=
  .next (s.takeFrame seq (commandOfFrame 0x02 (port :: count :: records)))

/-- MAP_READ (R94). -/
def execMapRead (seq port : Byte) (s : State) : Host.Outcome State Fault Refusal :=
  .next (s.takeFrame seq (some (.mapRead port)))

/-- MAP_OPEN (R93). -/
def execMapOpen (seq port : Byte) (s : State) : Host.Outcome State Fault Refusal :=
  .next (s.takeFrame seq (some (.mapOpen port)))

/-- FENCE (R131, R132, R163). -/
def execFence (seq port revoke : Byte) (s : State) : Host.Outcome State Fault Refusal :=
  .next (s.takeFrame seq (some (.fence port revoke)))

/-- UNFENCE (R133, R163). -/
def execUnfence (seq port : Byte) (s : State) : Host.Outcome State Fault Refusal :=
  .next (s.takeFrame seq (some (.unfence port)))

/-- QUIESCE (R164). -/
def execQuiesce (seq : Byte) (s : State) : Host.Outcome State Fault Refusal := .next (s.takeFrame seq (some .quiesce))

/-- QUIESCE_DRAIN_END (R164): the link unit looks at the ports' phases, and ends a drain that is in process where every port is
drained. Each event whose phase change drains the last port has looked already and ended the drain (log 12). -/
def execQuiesceDrainEnd (s : State) : Host.Outcome State Fault Refusal := .next s.drainEnd

/-- RESUME (R165). -/
def execResume (seq : Byte) (s : State) : Host.Outcome State Fault Refusal := .next (s.takeFrame seq (some .resume))

/-- CLAIM_LIST (R166). -/
def execClaimList (seq first maximum : Byte) (s : State) : Host.Outcome State Fault Refusal :=
  .next (s.takeFrame seq (some (.claimList first maximum)))

/-- CLAIM_REVOKE (R167). -/
def execClaimRevoke (seq slot : Byte) (addr : BitVec 24) (ticket : Byte) (s : State) : Host.Outcome State Fault Refusal :=
  .next (s.takeFrame seq (some (.claimRevoke slot addr ticket)))

/-- CLAIM_CLEAR (R168). -/
def execClaimClear (seq slot : Byte) (s : State) : Host.Outcome State Fault Refusal :=
  .next (s.takeFrame seq (some (.claimClear slot)))

/-- LOG_READ (R151). -/
def execLogRead (seq maximum : Byte) (s : State) : Host.Outcome State Fault Refusal :=
  .next (s.takeFrame seq (some (.logRead maximum)))

/-- TIME_SET (R66). -/
def execTimeSet (seq : Byte) (divisor : Ticks) (s : State) : Host.Outcome State Fault Refusal :=
  .next (s.takeFrame seq (some (.timeSet divisor)))

/-- UNKNOWN_COMMAND (R157): a frame with the code and payload named. The code 00H is no frame (R156), and a code that names
a command is that command's frame. -/
def execUnknownCommand (code seq : Byte) (payload : List Byte) (s : State) : Host.Outcome State Fault Refusal :=
  .next (if code = 0 then s else s.takeFrame seq (commandOfFrame code payload))

end Sys2Proof.Machine
end

