-- ==== Sys2Proof/Machine/LinkUnit.lean ====
section
/-! DEFINITION. The supervisor link: selections and the frames received in them (sections 11.1 and 11.2), and the meanings of
SELECTION and FRAME. -/

namespace Sys2Proof.Machine

/-! ### Frames (R156, R157) -/

/-- The input of a selection is taken at its end, as the complete bytes received (R156, R157): no frame where there is none
or the first is 00H; REJECTED-LENGTH for a length byte above 250 or a frame cut short; REJECTED-CHECK where the bytes do not
sum to zero; else the frame is taken. Bytes after the check byte are disregarded. -/
def State.receive (s : State) (bytes : List Byte) : State :=
  if s.partReset then s
  else match bytes with
    | [] => s
    | code :: rest =>
      if code = 0 then s
      else match rest with
        | seq :: n :: body =>
          if 250 < n.toNat || body.length ≤ n.toNat then s.setOutcome .rejectedLength
          else if byteSum (code :: seq :: n :: body.take (n.toNat + 1)) ≠ 0 then s.setOutcome .rejectedCheck
          else s.takeFrame seq (commandOfFrame code (body.take n.toNat))
        | _ => s.setOutcome .rejectedLength

/-! ### Selections (R155, R170) -/

/-- What a selection shifts out: the status byte, then the response that was READY at select, whole (R155). -/
def Selection.output (sel : Selection) : List Bool :=
  byteBits sel.statusByte ++ bitsOf (sel.response.elim [] Response.bytes)

/-- The bit shifted out at a place in the output; zeros follow the response (R155). -/
def Selection.bit (sel : Selection) (k : Nat) : Bool := sel.output.getD k false

/-- The first `n` bits shifted out. -/
def Selection.bits (sel : Selection) (n : Nat) : List Bool := (List.range n).map sel.bit

/-- Was the last byte of a response shifted out? (R155) -/
def Selection.sentInFull (sel : Selection) : Bool := sel.response.isSome && sel.output.length ≤ sel.received.length

/-- Set the selection in progress and the record of SDO. -/
def State.setSelection (s : State) (sel : Option Selection) (sdo : List Bool) : State :=
  s.setLink { s.link with selection := sel, sdo := sdo }

/-- The selection that begins now: the status byte and the response are those of the moment of select (R155, R159). -/
def State.newSelection (s : State) : Selection :=
  { disregarded := s.partReset, statusByte := s.link.statusByte, response := s.link.slot, received := [] }

/-- Select is asserted. A select already asserted is not asserted again (log 13). -/
def State.select (s : State) : State :=
  match s.link.selection with
  | some _ => s
  | none => s.setSelection (some s.newSelection) []

/-- One period of the serial clock: a bit is received and a bit shifted out; a disregarded selection does neither (R170). -/
def State.clockBit (s : State) (sdi : Bool) : State :=
  match s.link.selection with
  | some sel =>
    if sel.disregarded then s
    else s.setSelection (some { sel with received := sel.received ++ [sdi] }) (s.link.sdo ++ [sel.bit sel.received.length])
  | none => s

/-- The output side is settled at the end of a selection: a response sent in full leaves the slot EMPTY (R155). -/
def State.settleOutput (s : State) (sel : Selection) : State :=
  if sel.sentInFull && s.link.slot = sel.response then s.setLink { s.link with slot := none } else s

/-- The end of a selection: the output side, then the frame received (R155, R156); a disregarded one has no effect (R170). -/
def State.endSelection (s : State) (sel : Selection) : State :=
  let s := s.setSelection none s.link.sdo
  if sel.disregarded then s else (s.settleOutput sel).receive (bytesOf sel.received)

/-- Select is released. -/
def State.release (s : State) : State :=
  match s.link.selection with
  | some sel => s.endSelection sel
  | none => s

/-- A whole selection in which some complete bytes and some further bits are clocked: select, the clock periods, release. The
value of bits that make no complete byte plays no part (R156). -/
def State.wholeSelection (s : State) (bytes : List Byte) (extra : Nat) : State :=
  match s.link.selection with
  | some _ => s
  | none =>
    let received := bitsOf bytes ++ List.replicate extra false
    let sel := { s.newSelection with received := received }
    let sdo := if sel.disregarded then [] else sel.bits received.length
    (s.setSelection none sdo).endSelection sel

/-- SELECTION (R155, R156). -/
def execSelection (e : SelectionEvent) (s : State) : Host.Outcome State Fault Refusal :=
  match e with
  | .select => .next s.select
  | .clock sdi => .next (s.clockBit sdi)
  | .release => .next s.release
  | .whole bytes extra => .next (s.wholeSelection bytes extra)

/-- FRAME: the bytes of a frame are taken at the end of its selection (R156, R157). -/
def execFrame (bytes : List Byte) (s : State) : Host.Outcome State Fault Refusal := .next (s.receive bytes)

end Sys2Proof.Machine
end

