-- ==== Sys2Proof/Machine/Dispatch.lean ====
section
/-! DEFINITION. The effect of each command on everything but the queue: one arm per constructor. -/

namespace Sys2Proof.Machine

/-- The effect of a command (spec/opcode_table.json). -/
def exec (i : Instr) (s : State) : Host.Outcome State Fault Refusal :=
  match i with
  | .claimAttempt p a be => Sys2Proof.Machine.execClaimAttempt p a be s
  | .claimWordWrite p a be d => Sys2Proof.Machine.execClaimWordWrite p a be d s
  | .viewRead p a be => Sys2Proof.Machine.execViewRead p a be s
  | .viewWrite p a be d => Sys2Proof.Machine.execViewWrite p a be d s
  | .plainRead p a be => Sys2Proof.Machine.execPlainRead p a be s
  | .plainWrite p a be d => Sys2Proof.Machine.execPlainWrite p a be d s
  | .noticeRead p a be => Sys2Proof.Machine.execNoticeRead p a be s
  | .noticeControlWrite p a be d => Sys2Proof.Machine.execNoticeControlWrite p a be d s
  | .arbiterGrant => Sys2Proof.Machine.execArbiterGrant s
  | .plainAccessCompletion error => Sys2Proof.Machine.execPlainAccessCompletion error s
  | .viewReadCompletion error => Sys2Proof.Machine.execViewReadCompletion error s
  | .grantFetchCompletion error => Sys2Proof.Machine.execGrantFetchCompletion error s
  | .writeBackCompletion error => Sys2Proof.Machine.execWriteBackCompletion error s
  | .tick => Sys2Proof.Machine.execTick s
  | .leaseExpiry slot => Sys2Proof.Machine.execLeaseExpiry slot s
  | .waitExpiry p => Sys2Proof.Machine.execWaitExpiry p s
  | .portResetAsserted p => Sys2Proof.Machine.execPortResetAsserted p s
  | .portResetDeasserted p => Sys2Proof.Machine.execPortResetDeasserted p s
  | .partReset => Sys2Proof.Machine.execPartReset s
  | .selection e => Sys2Proof.Machine.execSelection e s
  | .frame bytes => Sys2Proof.Machine.execFrame bytes s
  | .status seq => Sys2Proof.Machine.execStatus seq s
  | .mapLoad seq port count records => Sys2Proof.Machine.execMapLoad seq port count records s
  | .mapRead seq port => Sys2Proof.Machine.execMapRead seq port s
  | .mapOpen seq port => Sys2Proof.Machine.execMapOpen seq port s
  | .fence seq port revoke => Sys2Proof.Machine.execFence seq port revoke s
  | .unfence seq port => Sys2Proof.Machine.execUnfence seq port s
  | .quiesce seq => Sys2Proof.Machine.execQuiesce seq s
  | .quiesceDrainEnd => Sys2Proof.Machine.execQuiesceDrainEnd s
  | .resume seq => Sys2Proof.Machine.execResume seq s
  | .claimList seq first maximum => Sys2Proof.Machine.execClaimList seq first maximum s
  | .claimRevoke seq slot addr ticket => Sys2Proof.Machine.execClaimRevoke seq slot addr ticket s
  | .claimClear seq slot => Sys2Proof.Machine.execClaimClear seq slot s
  | .logRead seq maximum => Sys2Proof.Machine.execLogRead seq maximum s
  | .timeSet seq divisor => Sys2Proof.Machine.execTimeSet seq divisor s
  | .unknownCommand code seq payload => Sys2Proof.Machine.execUnknownCommand code seq payload s
  | .tbclkPeriod => Sys2Proof.Machine.execTbclkPeriod s
  | .partResetReleased => Sys2Proof.Machine.execPartResetReleased s

end Sys2Proof.Machine
end

