-- ==== Sys2Proof/Machine/Idle.lean ====
section
/-! DEFINITION. What the block does of itself when no command waits: the grant that the spec makes due without a
command (log 12), and the placing of a command at the front of the queue. -/

namespace Sys2Proof.Machine

/-- A grant is due: the memory port is idle, a requester is present, the part is not in reset (R140, R146). -/
def State.grantDue (s : State) : Bool := !s.partReset && s.memPort.operation.isNone && s.nextGrant.isSome

/-- On an empty queue the block makes a grant where one is due, and idles where none is. -/
def State.idle (s : State) : Host.Outcome State Fault Refusal := if s.grantDue then exec .arbiterGrant s else .next s

/-- A command is put at the front of the queue. -/
def State.push (s : State) (c : Instr) : State := { s with pending := c :: s.pending }

end Sys2Proof.Machine
end

