-- ==== Sys2Proof/Safety.lean ====
section
/-! DEFINITION. What a sound state of the part is, rule by rule, what it means that every step keeps it, and the words that
the statements use for frames. No stop is possible, so a safe run is one whose states are all sound. -/

namespace Sys2Proof.Machine

/-- Every step keeps a property of states. -/
def KeptByStep (P : State → Prop) : Prop := ∀ s t, P s → step s = .next t → P t

/-! ### Invariants -/

/-- No two non-FREE entries have the same claim-word address (R2). -/
abbrev State.AddressesDistinct (s : State) : Prop :=
  ∀ i j : Slot, (s.entry i).address.isSome = true → (s.entry i).address = (s.entry j).address → i = j

/-- A waiter list never has two records for one port and never a record for the entry's holder (R45). -/
def Entry.listSound : Entry → Bool
  | .held h => decide (h.holder :: h.waiters.map Waiter.port).Nodup
  | _ => true

/-- Every waiter list is sound (R45). -/
abbrev State.ListsSound (s : State) : Prop := ∀ i : Slot, (s.entry i).listSound = true

/-- An entry whose write-back state is QUEUED. -/
def Entry.isQueued : Entry → Bool
  | .retiring r => r.writeBack.isNone
  | _ => false

/-- Every slot in the write-back queue appears once and belongs to a RETIRING entry with no write-back in flight (R14); and
every such entry's slot is in the queue (R13, R16). -/
abbrev State.QueueSound (s : State) : Prop :=
  s.writeBackQueue.Nodup ∧ ∀ i : Slot, i ∈ s.writeBackQueue ↔ (s.entry i).isQueued = true

/-- A running count stands between 1 and the length it was set to. -/
def countSound (remaining length : Ticks) : Bool := 1 ≤ remaining.toNat && remaining.toNat ≤ length.toNat

/-- The count of a waiter record, if it has one, is sound. -/
def Waiter.countSound (w : Waiter) : Bool :=
  match w.mode with
  | .wait limit (some n) => Machine.countSound n limit
  | _ => true

/-- The running counts of an entry are sound. -/
def Entry.countsSound : Entry → Bool
  | .held h => h.lease.all (fun l => countSound l.remaining l.length) && h.waiters.all Waiter.countSound
  | _ => true

/-- No running count stands at 0, and none exceeds the length it was set to (R68, R69, R51). -/
abbrev State.CountsSound (s : State) : Prop := ∀ i : Slot, (s.entry i).countsSound = true

/-- Number of WAIT records of a port on all the lists. -/
def State.waitRecords (s : State) (p : Port) : Nat :=
  (slots.map fun i => (s.entry i).waiters.countP fun w => w.port = p && w.waits).sum

/-- A WAIT record of a port exists exactly when the port is STALLED, and then in exactly one list (R54). -/
abbrev State.StallsSound (s : State) : Prop :=
  ∀ p : Port, s.waitRecords p = if (s.port p).phase.isStalled then 1 else 0

/-- The write in flight of an entry whose write-back state is IN-FLIGHT, with its written ticket and regranted mark (R3). -/
def Entry.inFlight : Entry → Option InFlight
  | .held h => h.writeBack
  | .retiring r => r.writeBack
  | _ => none

/-- A port holds the claim of an entry. -/
def Entry.heldBy (e : Entry) (p : Port) : Bool :=
  match e with
  | .held h => h.holder = p
  | _ => false

/-- A port whose condition is OFFLINE holds no claim, has no waiter record, no transaction in flight and no notices
(R120, R128), and its master presents nothing (R123). -/
abbrev State.OfflineEmpty (s : State) : Prop :=
  ∀ p : Port, (s.port p).resetAsserted = true →
    (s.port p).phase = .idle ∧ s.notice p = NoticeUnit.empty ∧ (s.port p).presented = none ∧
      ∀ i : Slot, (s.entry i).heldBy p = false ∧ enrolled (s.entry i).waiters p = false

/-- No port that takes requests has one waiting (R123): a request waits only while a condition fails at its port. -/
abbrev State.NothingWaits (s : State) : Prop := ∀ p : Port, s.takes p = true → (s.port p).presented = none

/-- A port whose fence flag is set has no waiter record (R59). -/
abbrev State.FencedUnlisted (s : State) : Prop :=
  ∀ p : Port, (s.port p).fence = true → ∀ i : Slot, enrolled (s.entry i).waiters p = false

/-- A notice queue holds at most eight notices (R110), the log at most sixteen records (R149). -/
abbrev State.BuffersBounded (s : State) : Prop :=
  (∀ p : Port, (s.notice p).queue.length ≤ 8) ∧ s.log.records.length ≤ 16

/-- An installed list has at most eight segments and passes every check of R87. -/
def PortMap.sound : PortMap → Bool
  | .openMode => true
  | .mapped l => l.length ≤ 8 && listFault l = none

/-- Every installed list is sound (R81). -/
abbrev State.MapsSound (s : State) : Prop := ∀ p : Port, (s.map p).sound = true

/-- The divider count is 1 to the divisor (Chapter 4, 4.1). -/
abbrev State.DividerSound (s : State) : Prop := 1 ≤ s.divider.toNat ∧ s.divider.toNat ≤ s.divisor.toNat

/-- The part is DRAINING exactly while a QUIESCE is in process, and only while some port is not drained (R164). -/
abbrev State.DrainSound (s : State) : Prop :=
  (s.quiesce = .draining ↔ s.link.process.isSome = true) ∧
    (s.quiesce = .draining → ∃ p : Port, (s.port p).phase ≠ .idle ∧ (s.port p).phase.isStalled = false)

/-- The bank lists its cells in the canonical form. -/
abbrev State.BankSound (s : State) : Prop := bankWf s.bank = true

/-- The write-back in flight and its entry agree (R3, R15, R16): its entry has the write-back state IN-FLIGHT, and no other entry
has; it is RETIRING or HELD at the word being written; the written ticket is the one in the word. A clear regranted mark is that
of a RETIRING entry whose ticket and payload are those being written. -/
def State.WriteBackSound (s : State) : Prop :=
  (∀ i a d, s.memPort.operation = some (.ofWriteBack i a d) →
    (s.entry i).address = some a ∧ d.extractLsb' 24 8 = 0 ∧
      ∃ b, (s.entry i).inFlight = some b ∧ b.written = d.extractLsb' 16 8) ∧
  (∀ i b, (s.entry i).inFlight = some b →
    ∃ a d, s.memPort.operation = some (.ofWriteBack i a d) ∧
      (b.regranted = false → s.entry i = .retiring { address := a, ticket := d.extractLsb' 16 8, payload := d.extractLsb' 0 16
                                                     writeBack := some b }))

/-- The operation in flight, the IN-MEMORY port and the FETCHING entries agree (R7, R8, R137, R139):
* an IN-MEMORY port's operation is the one in flight, and is not given up;
* a QUEUED grant fetch has its FETCHING entry at the word, unmarked;
* an IN-MEMORY grant fetch has its FETCHING entry at the word, not marked OFFLINE;
* a fetch in flight has a FETCHING entry of its port at the word, which is marked OFFLINE or whose port is IN-MEMORY;
* a FETCHING entry has its fetch QUEUED at its port, the entry unmarked, or in flight. -/
def State.FetchesSound (s : State) : Prop :=
  (∀ p t, (s.port p).phase = .inMemory t → s.memPort.operation = some (.ofPort p t.work t.physical false)) ∧
  (∀ p t, (s.port p).phase = .queued t → t.purpose = .grantFetch → ∃ i, s.entry i = .fetching t.physical p .none) ∧
  (∀ p t, (s.port p).phase = .inMemory t → t.purpose = .grantFetch →
    ∃ i mark, s.entry i = .fetching t.physical p mark ∧ mark ≠ .offline) ∧
  (∀ p a g, s.memPort.operation = some (.ofPort p .grantFetch a g) →
    ∃ i mark, s.entry i = .fetching a p mark ∧ (mark = .offline ∨ ∃ t, (s.port p).phase = .inMemory t)) ∧
  (∀ i a p mark, s.entry i = .fetching a p mark →
    (mark = .none ∧ ∃ t, (s.port p).phase = .queued t ∧ t.purpose = .grantFetch ∧ t.physical = a) ∨
      ∃ g, s.memPort.operation = some (.ofPort p .grantFetch a g))

/-! ### Words for the hypotheses and the frames of statements -/

/-- An ONLINE port that takes a presented request (R123): part out of reset, reset input deasserted, fence flag clear, part
RUNNING, phase IDLE. -/
abbrev State.Accepts (s : State) (p : Port) : Prop :=
  s.partReset = false ∧ (s.port p).resetAsserted = false ∧ (s.port p).fence = false ∧ s.quiesce = .running ∧
    (s.port p).phase = .idle

/-- The link unit takes frames: part out of reset, no command in process (R157, R170). -/
abbrev State.LinkTakes (s : State) : Prop := s.partReset = false ∧ s.link.process = none

/-- At most the port unit of `p` differs. -/
def PortsSameBut (s t : State) (p : Port) : Prop := ∀ q, q ≠ p → t.port q = s.port q

/-- At most the entry in slot `i` differs. -/
def EntriesSameBut (s t : State) (i : Slot) : Prop := ∀ j, j ≠ i → t.entry j = s.entry j

/-- A notice was sent to `p`, discarded if its reset input is asserted (R112, R120), and no other notice unit changed. -/
def Notified (s t : State) (p : Port) (n : Notice) : Prop :=
  t.notice p = (if (s.port p).resetAsserted then s.notice p else (s.notice p).arrive n) ∧
    ∀ q, q ≠ p → t.notice q = s.notice q

/-- A port returned a completion at acceptance: the request is no longer presented, the phase stays IDLE. -/
def RepliedAtOnce (s t : State) (p : Port) (r : Reply) : Prop :=
  t.port p = { s.port p with presented := none, replies := (s.port p).replies ++ [r] } ∧ PortsSameBut s t p

/-- A port's transaction in flight was completed: phase IDLE and the completion returned. -/
def Completed (s t : State) (p : Port) (r : Reply) : Prop :=
  t.port p = { s.port p with phase := .idle, replies := (s.port p).replies ++ [r] } ∧ PortsSameBut s t p

/-- The access that a command of a master presents. -/
def Instr.access : Instr → Option (Port × Request)
  | .claimAttempt p a be => some (p, readRequest a be)
  | .claimWordWrite p a be d => some (p, writeRequest a be d)
  | .viewRead p a be => some (p, readRequest a be)
  | .viewWrite p a be d => some (p, writeRequest a be d)
  | .plainRead p a be => some (p, readRequest a be)
  | .plainWrite p a be d => some (p, writeRequest a be d)
  | .noticeRead p a be => some (p, readRequest a be)
  | .noticeControlWrite p a be d => some (p, writeRequest a be d)
  | _ => none

/-- The row of a supervisor command (section 12.3). -/
def Command.row (seq : Byte) : Command → Instr
  | .status => .status seq
  | .mapLoad port count records => .mapLoad seq port count records
  | .mapRead port => .mapRead seq port
  | .mapOpen port => .mapOpen seq port
  | .fence port revoke => .fence seq port revoke
  | .unfence port => .unfence seq port
  | .quiesce => .quiesce seq
  | .resume => .resume seq
  | .claimList first maximum => .claimList seq first maximum
  | .claimRevoke slot addr ticket => .claimRevoke seq slot addr ticket
  | .claimClear slot => .claimClear seq slot
  | .logRead maximum => .logRead seq maximum
  | .timeSet divisor => .timeSet seq divisor
  | .unknown code => .unknownCommand code seq []

/-- A command whose frame the link can carry and accept: a MAP-LOAD has fourteen bytes a record and fits a frame (R160); an
unknown code is none that the table lists and not 00H (R156, R157). -/
def Command.sendable : Command → Bool
  | .mapLoad _ count records => records.length = 14 * count.toNat && records.length ≤ 248
  | .unknown code => 13 < code.toNat
  | _ => true

/-- Commands one after another. -/
def execAll : List Instr → State → Host.Outcome State Fault Refusal
  | [], s => .next s
  | c :: rest, s =>
    match exec c s with
    | .next t => execAll rest t
    | .fault r => .fault r
    | .refused r => .refused r

/-- Place of a requester in the cyclic order P0, P1, P2, P3, write-back (R140). -/
def Requester.rank : Requester → Nat
  | .port p => p.val
  | .writeBack => 4

/-- How many places after the pointer's own requester another stands in the search: 1 for the next, 5 for itself (R140). -/
def Requester.distance (pointer q : Requester) : Nat := (q.rank + 4 - pointer.rank) % 5 + 1

/-- The entry that a HELD entry becomes when its holder loses the claim (R55, R13), as the claim passes on to the head of
the list or the entry retires. -/
def HeldEntry.afterLoss (h : HeldEntry) : Entry :=
  match h.waiters with
  | [] => .retiring { address := h.address, ticket := h.ticket, payload := h.payload, writeBack := h.writeBack }
  | w :: rest =>
    .held { address := h.address, holder := w.port, ticket := h.ticket + 1, payload := h.payload
            lease := if w.lease = 0 then none else some { length := w.lease, remaining := w.lease }
            waiters := rest
            writeBack := h.writeBack.map fun f => { f with regranted := true } }

/-- Does a loss of the entry put its slot in the write-back queue (R13)? -/
def HeldEntry.queuesAtLoss (h : HeldEntry) : Bool := h.waiters.isEmpty && h.writeBack.isNone

/-- What an entry becomes when port `p` loses its waiter records and, if `lose`, its claims (R58, R59). -/
def Entry.afterLeaving (e : Entry) (p : Port) (lose : Bool) : Entry :=
  match e with
  | .held h =>
    let h := { h with waiters := h.waiters.filter fun w => w.port ≠ p }
    if lose && h.holder = p then h.afterLoss else .held h
  | e => e

/-- Does that put the entry's slot in the write-back queue? -/
def Entry.queuesLeaving (e : Entry) (p : Port) (lose : Bool) : Bool :=
  match e with
  | .held h => lose && h.holder = p && (h.waiters.all fun w => w.port = p) && h.writeBack.isNone
  | _ => false

/-- A new holder was told (R56): a WAIT head's read completed GRANTED, a QUEUE head was sent HANDOFF. `h` is the entry before
the loss, `w` its head record, `rest` the others. -/
def NewHolderTold (s t : State) (h : HeldEntry) (w : Waiter) (rest : List Waiter) : Prop :=
  if w.waits then
    t.port w.port = { s.port w.port with
      phase := .idle
      replies := (s.port w.port).replies ++ [.data (replyWord .granted w.port rest.length (h.ticket + 1) h.payload)] } ∧
    t.notice w.port = s.notice w.port
  else
    t.port w.port = s.port w.port ∧
    t.notice w.port = (if (s.port w.port).resetAsserted then s.notice w.port else (s.notice w.port).arrive
      { kind := .handoff, other := h.holder, ticketBits := (h.ticket + 1).extractLsb' 0 4, address := h.address })

/-- The port that an EXPIRED or REVOKED notice names: the new holder, or the former holder where the entry retired (R57). -/
def HeldEntry.nextHolder (h : HeldEntry) : Port :=
  match h.waiters with
  | [] => h.holder
  | w :: _ => w.port

/-- The ticket current after a loss (R57). -/
def HeldEntry.nextTicket (h : HeldEntry) : Ticket :=
  match h.waiters with
  | [] => h.ticket
  | _ :: _ => h.ticket + 1

/-- The link after an accepted command that answered: outcome ACCEPTED, the response READY (R157, R158). -/
def Answered (s t : State) (seq : Byte) (st : ResponseStatus) (payload : List Byte) : Prop :=
  t.link = { s.link with outcome := .accepted, slot := some { status := st, seq := seq, payload := payload } }

/-- The waiter to which the claim on an entry passes when port `p` loses its waiter records and its claims, with the entry and
the waiters behind it; `none` where `p` does not hold the entry or nobody else waits. -/
def Entry.heir (e : Entry) (p : Port) : Option (HeldEntry × Waiter × List Waiter) :=
  match e with
  | .held h =>
    if h.holder = p then
      match h.waiters.filter fun w => w.port ≠ p with
      | [] => none
      | w :: rest => some (h, w, rest)
    else none
  | _ => none

/-- The HANDOFF notices that the loss of the claims of `p` sends to `q`, in ascending slot order (R56, R58). -/
def State.handoffsTo (s : State) (p q : Port) : List Notice :=
  slots.filterMap fun i =>
    match (s.entry i).heir p with
    | some (h, w, _) =>
      if w.port = q && !w.waits then
        some { kind := .handoff, other := p, ticketBits := (h.ticket + 1).extractLsb' 0 4, address := h.address }
      else none
    | none => none

/-- The GRANTED completions that the loss of the claims of `p` gives to `q`, in ascending slot order (R56, R58). -/
def State.grantsTo (s : State) (p q : Port) : List Reply :=
  slots.filterMap fun i =>
    match (s.entry i).heir p with
    | some (h, w, rest) =>
      if w.port = q && w.waits then some (.data (replyWord .granted q rest.length (h.ticket + 1) h.payload)) else none
    | none => none

/-- The claims of `p` passed on, as far as the other ports see it (R56, R58): the QUEUE heads were sent HANDOFF and the reads
of the WAIT heads completed GRANTED, slot by slot in ascending order; any other port was left as it was. -/
def HandedOn (s t : State) (p : Port) : Prop :=
  ∀ q, q ≠ p →
    t.notice q = (if (s.port q).resetAsserted then s.notice q else (s.handoffsTo p q).foldl NoticeUnit.arrive (s.notice q)) ∧
    t.port q = (if s.grantsTo p q = [] then s.port q
      else { s.port q with phase := .idle, replies := (s.port q).replies ++ s.grantsTo p q })

/-- A requester of the memory port stands before every other one that is present, in the search that begins after the
pointer (R140). -/
def State.Next (s : State) (q : Requester) : Prop :=
  s.requests q = true ∧
    ∀ r, s.requests r = true → Requester.distance s.memPort.pointer q ≤ Requester.distance s.memPort.pointer r

/-- The memory port is free for a grant: part out of reset, no operation in flight (R140, R146). -/
abbrev State.MemoryFree (s : State) : Prop := s.partReset = false ∧ s.memPort.operation = none

/-- The next grant goes to port `q` for its plain write `t` to a word that has an entry, and refuses it (R142). -/
def State.RefusalNext (s : State) (q : Port) (t : Transaction) : Prop :=
  s.partReset = false ∧ s.Next (.port q) ∧ (s.port q).phase = .queued t ∧ t.purpose = .plainWrite ∧
    ∃ i, (s.entry i).address = some t.physical

/-- A grant to `q` refused its plain write `t` CLAIMWORD (R142): the pointer names the port, the write completed FAULT, a CLAIMWORD
record went to the log, and no operation was issued. -/
def RefusedAtGrant (s m : State) (q : Port) (t : Transaction) : Prop :=
  Completed s m q t.request.direction.fault ∧ m.memPort = { s.memPort with pointer := .port q } ∧
    m.log = s.log.append { kind := .claimword, port := some q, access := t.request.direction.field
                           logical := some t.request.logical, physical := some t.physical, ticket := none } ∧
    { m with ports := s.ports, memPort := s.memPort, log := s.log, freeIndex := s.freeIndex } = s

/-- `e` is `s` after the grants whose queries come before a completion at an entry. While the next grant would refuse a plain
write, the next free value decides: the completion comes first, or that write is refused and the next grant is looked at (R106,
R142, R143, log 22). -/
inductive QueriedFirst : State → State → Prop where
  | noWrite {s : State} : (∀ q t, ¬ s.RefusalNext q t) → QueriedFirst s s
  | completionFirst {s : State} {q : Port} {t : Transaction} : s.RefusalNext q t → Config.order s.freeIndex % 2 = 0 →
      QueriedFirst s { s with freeIndex := s.freeIndex + 1 }
  | queryFirst {s m e : State} {q : Port} {t : Transaction} : s.RefusalNext q t → Config.order s.freeIndex % 2 ≠ 0 →
      RefusedAtGrant s m q t → m.freeIndex = s.freeIndex + 1 → QueriedFirst m e → QueriedFirst s e

/-! ### What a tick does at an entry (R67, R68) -/

/-- A waiter record whose wait remaining, if it has one, is one less. -/
def Waiter.counted (w : Waiter) : Waiter :=
  match w.mode with
  | .wait limit (some n) => { w with mode := .wait limit (some (n - 1)) }
  | _ => w

/-- A HELD entry all of whose running counts are one less. -/
def HeldEntry.counted (h : HeldEntry) : HeldEntry :=
  { h with lease := h.lease.map fun l => { l with remaining := l.remaining - 1 }, waiters := h.waiters.map Waiter.counted }

/-- An entry all of whose running counts are one less; only HELD entries have any (R67). -/
def Entry.counted : Entry → Entry
  | .held h => .held h.counted
  | e => e

/-- The records that remain of a list after a tick: those whose waits do not end, counted. -/
def remaining (l : List Waiter) : List Waiter := (l.filter fun w => !w.waitAt 1).map Waiter.counted

/-- What the HELD entry `h` is after a tick. Where its lease does not end, it is counted, without the records whose waits end.
Where its lease ends, the claim passes to some record `w` before which every wait has ended, with the records behind `w` that
remain; or every wait has ended, and the entry retires (R61, R67, R68). -/
def HeldEntry.TickedTo (h : HeldEntry) (e : Entry) : Prop :=
  (h.leaseAt 1 = false → e = .held { h.counted with waiters := remaining h.waiters }) ∧
  (h.leaseAt 1 = true →
    ((∀ w ∈ h.waiters, w.waitAt 1 = true) ∧ e = HeldEntry.afterLoss { h with waiters := [] }) ∨
      ∃ before w behind, h.waiters = before ++ w :: behind ∧ (∀ v ∈ before, v.waitAt 1 = true) ∧
        e = HeldEntry.afterLoss { h with waiters := w :: remaining behind })

/-- Of all the running counts the next tick ends at most the lease in slot `i`, if `lease`, and the wait of `p` on the list of
that slot, if `wait`. -/
def State.EndsAtMost (s : State) (i : Slot) (lease : Bool) (p : Port) (wait : Bool) : Prop :=
  ∀ j h, s.entry j = .held h →
    (h.leaseAt 1 = true → lease = true ∧ j = i) ∧ ∀ w ∈ h.waiters, w.waitAt 1 = true → wait = true ∧ j = i ∧ w.port = p

/-- The next TBCLK period produces a tick (R65). -/
abbrev State.TickNext (s : State) : Prop := s.partReset = false ∧ s.divider = 1

/-! ### What the checks of a replacement list look for (R87 to R90, R172) -/

/-- The codes of a record, by the bits of its descriptor (section 12.2): kind, 1 PLAIN, 2 CLAIM, 3 VIEW, 4 NOTICE; attribute,
1 READ-ONLY, 2 READ-WRITE, 3 POLL, 4 QUEUE, 5 WAIT. -/
def Segment.kindCode (g : Segment) : Nat := (g.descriptor.extractLsb' 29 3).toNat
def Segment.attributeCode (g : Segment) : Nat := (g.descriptor.extractLsb' 26 3).toNat

/-- A record whose encoding the FIELD check passes (R172), by the codes of its descriptor: PLAIN with an access, CLAIM with a
claim mode, VIEW or NOTICE with neither; a guard on PLAIN records alone; a lease length and a wait limit on CLAIM alone. -/
def Segment.FieldSound (g : Segment) : Prop :=
  let kind := g.kindCode
  let attr := g.attributeCode
  let readsToo := g.descriptor.getLsbD 25
  let present := g.descriptor.getLsbD 24
  (kind = 1 ∧ (attr = 1 ∨ attr = 2) ∧ (readsToo = true → present = true) ∧ g.lease = 0 ∧ g.limit = 0) ∨
  (kind = 2 ∧ (attr = 3 ∨ attr = 4 ∨ attr = 5) ∧ present = false ∧ readsToo = false) ∨
  ((kind = 3 ∨ kind = 4) ∧ attr = 0 ∧ present = false ∧ readsToo = false ∧ g.lease = 0 ∧ g.limit = 0)

/-- A record that the RANGE check passes (R88, R172). -/
def Segment.RangeSound (g : Segment) : Prop :=
  g.basePage.toNat ≤ 1023 ∧ 1 ≤ g.pageCount.toNat ∧ g.basePage.toNat + g.pageCount.toNat ≤ 1024 ∧
    (g.kindCode ≠ 4 → g.baseFrame.toNat + g.pageCount.toNat ≤ 4096) ∧
    (g.descriptor.getLsbD 24 = true → (g.descriptor.extractLsb' 0 24).toNat ≤ 0x3FFFFF)

/-- The faults that each check finds at the record numbered `n` of a list. -/
def FieldFaultAt (l : List Segment) (n : Nat) : Prop := ∃ g, l[n]? = some g ∧ ¬ g.FieldSound
def RangeFaultAt (l : List Segment) (n : Nat) : Prop := ∃ g, l[n]? = some g ∧ ¬ g.RangeSound
def OrderFaultAt (l : List Segment) (n : Nat) : Prop :=
  ∃ m g h, n = m + 1 ∧ l[m]? = some g ∧ l[n]? = some h ∧ h.basePage.toNat < g.basePage.toNat + g.pageCount.toNat
def NoticeFaultAt (l : List Segment) (n : Nat) : Prop :=
  ∃ g, l[n]? = some g ∧ g.kindCode = 4 ∧ (g.pageCount ≠ 1 ∨ ∃ k u, k < n ∧ l[k]? = some u ∧ u.kindCode = 4)
def GuardFaultAt (l : List Segment) (n : Nat) : Prop :=
  ∃ g, l[n]? = some g ∧ g.kindCode = 1 ∧ g.descriptor.getLsbD 24 = true ∧
    ∀ c ∈ l, c.kindCode = 2 →
      let guard := (g.descriptor.extractLsb' 0 24).toNat
      ¬ (c.baseFrame.toNat * 1024 ≤ guard ∧ guard < (c.baseFrame.toNat + c.pageCount.toNat) * 1024)
def OverlapFaultAt (l : List Segment) (n : Nat) : Prop :=
  ∃ g c, l[n]? = some g ∧ g.kindCode = 1 ∧ c ∈ l ∧ c.kindCode = 2 ∧
    ∃ frame, (g.baseFrame.toNat ≤ frame ∧ frame < g.baseFrame.toNat + g.pageCount.toNat) ∧
      c.baseFrame.toNat ≤ frame ∧ frame < c.baseFrame.toNat + c.pageCount.toNat

/-- `n` is the first number at which a property holds. -/
def FirstAt (P : Nat → Prop) (n : Nat) : Prop := P n ∧ ∀ k, k < n → ¬ P k

/-- A payload that has not the length that the command of the code requires (R160). A code that the table does not list takes
any (R157). -/
def LengthWrong (code : Byte) (payload : List Byte) : Prop :=
  (code ∈ [0x01, 0x07, 0x08] ∧ payload.length ≠ 0) ∨
  (code ∈ [0x03, 0x04, 0x06, 0x0B, 0x0C] ∧ payload.length ≠ 1) ∨
  (code ∈ [0x05, 0x09, 0x0D] ∧ payload.length ≠ 2) ∨
  (code = 0x0A ∧ payload.length ≠ 5) ∨
  (code = 0x02 ∧ ∀ count, payload[1]? = some count → payload.length ≠ 2 + 14 * count.toNat)

/-- The bytes of a word other than those of `a` read as before. -/
def BankSameBut (m n : List Host.Cell) (a : PhysAddr) : Prop :=
  ∀ k, (k < 4 * a.toNat ∨ 4 * a.toNat + 4 ≤ k) → readCell n k = readCell m k

/-- Of the word at `a`, the enabled lanes hold those of `d` and the others what they held; every other byte reads as
before (R98). -/
def BankWritten (m n : List Host.Cell) (a : PhysAddr) (be : Lanes) (d : Word) : Prop :=
  BankSameBut m n a ∧
    ∀ l, l < 4 → readCell n (4 * a.toNat + l) =
      if be.getLsbD l then d.extractLsb' (8 * l) 8 else readCell m (4 * a.toNat + l)

end Sys2Proof.Machine
end

