-- ==== Sys2Proof/Certificates/Slice0/Obligations.lean ====
section
/-! DEFINITION. The statements about the machine. Each docstring says first what the statement is, then what its Lean says. In a
frame, an equation of a record update of `t` with `s` says that `t` and `s` agree in every field the update does not name.
`t.endEvent s` is `t` at the end of the event that began in `s`: with the drain ended where the event has left every port drained,
which QuiesceDrains describes, and else `t.takeReady s`, which is `t` with the requests taken that wait where the last of the
conditions of R123 came to hold since `s`, which RequestWaitsUntilTaken describes. No command stops the machine, so every statement
about a command concludes that `exec` answers a next state. -/

open Sys2Proof Sys2Proof.Machine

/-! ### The step -/

/-- A step runs the command at the front of the queue. For every command c and every queue rest, a step with c in front of
rest is exec of c on the state with the rest as its queue. -/
def Obligations.StepRunsFrontCommand : Prop :=
  ∀ (s : State) (c : Instr) (rest : List Instr),
    step { s with pending := c :: rest } = exec c { s with pending := rest }

/-- On an empty queue the part makes a grant that is due, and idles where none is: the model's choice (log 12). A grant is due
where the memory port is free and a requester is present. The end of a drain, an expiry and the taking of a waiting request are
never due then, since each belongs to the event that brings it about. -/
def Obligations.EmptyQueueStepIsDueOrIdle : Prop :=
  ∀ s : State, s.pending = [] →
    let Grantable : Prop := s.MemoryFree ∧ ∃ q, s.requests q = true
    (Grantable → step s = exec .arbiterGrant s) ∧ (¬ Grantable → step s = .next s)

/-! ### Claim attempts -/

/-- A claim attempt on a word without an entry allocates the lowest FREE slot, or is answered FULL. The entry becomes FETCHING
for the port, unmarked, and the port QUEUED with the grant fetch; with no slot FREE the read is answered FULL and nothing
else changes. -/
def Obligations.ClaimAttemptOnFreeWordAllocates : Prop :=
  ∀ (s : State) (p : Port) (a : LogAddr) (be : Lanes) (x : PhysAddr) (f : ClaimFields),
    s.Accepts p → (s.map p).translate a = .memory x (.claim f) → (∀ i, (s.entry i).address ≠ some x) →
    (∀ i : Slot, s.entry i = .free → (∀ j, j < i → s.entry j ≠ .free) →
      ∃ t, exec (.claimAttempt p a be) s = .next t ∧
        t.entry i = .fetching x p .none ∧ EntriesSameBut s t i ∧
        t.port p = { s.port p with
          presented := none
          phase := .queued { request := { direction := .read, logical := a, enables := be }, physical := x
                             target := .claim f, purpose := .grantFetch } } ∧
        PortsSameBut s t p ∧ { t with ports := s.ports, table := s.table } = s) ∧
    ((∀ i, s.entry i ≠ .free) →
      ∃ t, exec (.claimAttempt p a be) s = .next t ∧ RepliedAtOnce s t p (.data (replyWord .full p 0 0 0)) ∧
        { t with ports := s.ports } = s)

/-- Claim attempts answered from the entry as it stands. BUSY from a FETCHING entry naming the fetching port; BROKEN from a
QUARANTINED entry with its ticket; BUSY to a POLL attempt by a port neither holder nor enrolled, with the waiter count;
QUEUED with its present position to a POLL or QUEUE attempt by an enrolled port. Nothing but the port's reply changes. -/
def Obligations.ClaimAttemptAnsweredFromEntry : Prop :=
  ∀ (s : State) (p : Port) (a : LogAddr) (be : Lanes) (x : PhysAddr) (f : ClaimFields) (i : Slot),
    s.Accepts p → (s.map p).translate a = .memory x (.claim f) → s.AddressesDistinct →
    (∀ q mark, s.entry i = .fetching x q mark →
      ∃ t, exec (.claimAttempt p a be) s = .next t ∧ RepliedAtOnce s t p (.data (replyWord .busy q 0 0 0)) ∧
        { t with ports := s.ports } = s) ∧
    (∀ k w, s.entry i = .quarantined x k w →
      ∃ t, exec (.claimAttempt p a be) s = .next t ∧ RepliedAtOnce s t p (.data (replyWord .broken p 0 k 0)) ∧
        { t with ports := s.ports } = s) ∧
    (∀ h, s.entry i = .held h → h.address = x → h.holder ≠ p → f.mode = .poll → (∀ w ∈ h.waiters, w.port ≠ p) →
      ∃ t, exec (.claimAttempt p a be) s = .next t ∧
        RepliedAtOnce s t p (.data (replyWord .busy h.holder h.waiters.length h.ticket 0)) ∧
        { t with ports := s.ports } = s) ∧
    (∀ h before w behind, s.entry i = .held h → h.address = x → h.holder ≠ p → f.mode ≠ .wait →
      h.waiters = before ++ w :: behind → w.port = p → (∀ v ∈ before, v.port ≠ p) →
      ∃ t, exec (.claimAttempt p a be) s = .next t ∧
        RepliedAtOnce s t p (.data (replyWord .queued h.holder (before.length + 1) h.ticket 0)) ∧
        { t with ports := s.ports } = s)

/-- A claim attempt by the holder is answered HELD and renews the lease. In every claim mode the reply carries the waiter
count, ticket and payload; a lease restarts from the entry's own length, an entry without a lease gains none, and nothing
else of the entry changes. -/
def Obligations.HolderAttemptRenewsLease : Prop :=
  ∀ (s : State) (p : Port) (a : LogAddr) (be : Lanes) (f : ClaimFields) (i : Slot) (h : HeldEntry),
    s.Accepts p → (s.map p).translate a = .memory h.address (.claim f) → s.AddressesDistinct →
    s.entry i = .held h → h.holder = p →
    ∃ t, exec (.claimAttempt p a be) s = .next t ∧
      t.entry i = .held { h with lease := h.lease.map fun l => { l with remaining := l.length } } ∧
      EntriesSameBut s t i ∧ RepliedAtOnce s t p (.data (replyWord .held p h.waiters.length h.ticket h.payload)) ∧
      { t with ports := s.ports, table := s.table } = s

/-- A claim attempt revives a RETIRING entry in every claim mode. The port becomes holder with the next ticket, the retained
payload and the lease of its segment; a queued write-back leaves the queue, one in flight is marked regranted; the reply is
GRANTED with count 0. -/
def Obligations.RetiringEntryRevived : Prop :=
  ∀ (s : State) (p : Port) (a : LogAddr) (be : Lanes) (f : ClaimFields) (i : Slot) (r : RetiringEntry),
    s.Accepts p → (s.map p).translate a = .memory r.address (.claim f) → s.AddressesDistinct →
    s.entry i = .retiring r →
    ∃ t, exec (.claimAttempt p a be) s = .next t ∧
      t.entry i = .held
        { address := r.address, holder := p, ticket := r.ticket + 1, payload := r.payload
          lease := if f.lease = 0 then none else some { length := f.lease, remaining := f.lease }
          waiters := [], writeBack := r.writeBack.map fun b => { b with regranted := true } } ∧
      EntriesSameBut s t i ∧
      t.writeBackQueue =
        (if r.writeBack = none then s.writeBackQueue.filter (fun j => j ≠ i) else s.writeBackQueue) ∧
      RepliedAtOnce s t p (.data (replyWord .granted p 0 (r.ticket + 1) r.payload)) ∧
      { t with ports := s.ports, table := s.table, writeBackQueue := s.writeBackQueue } = s

/-- A QUEUE attempt by a port neither holder nor enrolled enrols it at the tail. The read is answered QUEUED with the new
position; CONTENDED goes to the holder if and only if the list was empty; holder, ticket, payload and lease stand. -/
def Obligations.QueueAttemptEnrols : Prop :=
  ∀ (s : State) (p : Port) (a : LogAddr) (be : Lanes) (f : ClaimFields) (i : Slot) (h : HeldEntry),
    s.Accepts p → (s.map p).translate a = .memory h.address (.claim f) → s.AddressesDistinct →
    s.entry i = .held h → h.holder ≠ p → (∀ w ∈ h.waiters, w.port ≠ p) → f.mode = .queue →
    ∃ t, exec (.claimAttempt p a be) s = .next t ∧
      t.entry i = .held { h with waiters := h.waiters ++ [{ port := p, mode := .queue, lease := f.lease }] } ∧
      EntriesSameBut s t i ∧
      RepliedAtOnce s t p (.data (replyWord .queued h.holder (h.waiters.length + 1) h.ticket 0)) ∧
      (h.waiters = [] →
        Notified s t h.holder { kind := .contended, other := p, ticketBits := h.ticket.extractLsb' 0 4
                                address := h.address }) ∧
      (h.waiters ≠ [] → t.notices = s.notices) ∧
      { t with ports := s.ports, table := s.table, notices := s.notices } = s

/-- A WAIT attempt by a port that is not the holder. A cycle found by the deadlock check is answered DEADLOCK and changes
nothing else. Without a cycle, a port not enrolled gets a WAIT record at the tail with its wait count, CONTENDED goes to the
holder of an empty list, and the port stalls; an enrolled port's record is converted in its place, and the port stalls. -/
def Obligations.WaitAttemptStallsOrDeadlocks : Prop :=
  ∀ (s : State) (p : Port) (a : LogAddr) (be : Lanes) (f : ClaimFields) (i : Slot) (h : HeldEntry),
    s.Accepts p → (s.map p).translate a = .memory h.address (.claim f) → s.AddressesDistinct → s.ListsSound →
    s.entry i = .held h → h.holder ≠ p → f.mode = .wait →
    let mode : WaiterMode :=
      .wait f.limit (if f.limit = 0 then none else some f.limit)
    let stalled : PortUnit := { s.port p with
      presented := none
      phase := .stalled { request := { direction := .read, logical := a, enables := be }, physical := h.address
                          target := .claim f, purpose := .waitRead } }
    (s.deadlock p h.holder = true →
      ∃ t, exec (.claimAttempt p a be) s = .next t ∧
        RepliedAtOnce s t p (.data (replyWord .deadlock h.holder h.waiters.length h.ticket 0)) ∧
        { t with ports := s.ports } = s) ∧
    (s.deadlock p h.holder = false → (∀ w ∈ h.waiters, w.port ≠ p) →
      ∃ t, exec (.claimAttempt p a be) s = .next t ∧
        t.entry i = .held { h with waiters := h.waiters ++ [{ port := p, mode := mode, lease := f.lease }] } ∧
        EntriesSameBut s t i ∧ t.port p = stalled ∧ PortsSameBut s t p ∧
        (h.waiters = [] →
          Notified s t h.holder { kind := .contended, other := p, ticketBits := h.ticket.extractLsb' 0 4
                                  address := h.address }) ∧
        (h.waiters ≠ [] → t.notices = s.notices) ∧
        { t with ports := s.ports, table := s.table, notices := s.notices } = s) ∧
    (∀ before w behind, s.deadlock p h.holder = false → h.waiters = before ++ w :: behind → w.port = p →
      ∃ t, exec (.claimAttempt p a be) s = .next t ∧
        t.entry i = .held { h with waiters := before ++ { w with mode := mode, lease := f.lease } :: behind } ∧
        EntriesSameBut s t i ∧ t.port p = stalled ∧ PortsSameBut s t p ∧
        { t with ports := s.ports, table := s.table } = s)

/-- The deadlock check makes at most three moves from holder to holder through the stalled ports. A port moves on exactly when
it is STALLED, to the holder of the entry on whose list its WAIT record stands; a cycle is found exactly when the first,
second or third port moved to is the attempting port. -/
def Obligations.DeadlockCheckFollowsStalls : Prop :=
  (∀ (s : State) (p q : Port), s.deadlock p q = true ↔
    s.waitsOn q = some p ∨
      ∃ r, s.waitsOn q = some r ∧ (s.waitsOn r = some p ∨ ∃ u, s.waitsOn r = some u ∧ s.waitsOn u = some p)) ∧
  (∀ (s : State) (q r : Port), s.StallsSound →
    (s.waitsOn q = some r ↔
      (∃ t, (s.port q).phase = .stalled t) ∧
        ∃ i h, s.entry i = .held h ∧ h.holder = r ∧ ∃ w ∈ h.waiters, w.port = q ∧ w.mode ≠ .queue))

/-! ### Claim-word writes -/

/-- A release passes the claim on. A full-word write by the holder with the entry's ticket stores its payload. With no waiter
the entry retires with that payload and joins the write-back queue unless a write-back is in flight; else the head waiter
becomes holder with the next ticket and the lease of its record, and is told. The write completes OK; the log stands. -/
def Obligations.ReleasePassesClaimOn : Prop :=
  ∀ (s : State) (p : Port) (a : LogAddr) (d : Word) (f : ClaimFields) (i : Slot) (h : HeldEntry),
    s.Accepts p → (s.map p).translate a = .memory h.address (.claim f) → s.AddressesDistinct → s.ListsSound →
    s.entry i = .held h → h.holder = p → d.extractLsb' 16 8 = h.ticket →
    let after : HeldEntry := { h with payload := d.extractLsb' 0 16 }
    let replied : PortUnit := { s.port p with presented := none, replies := (s.port p).replies ++ [.written] }
    (h.waiters = [] →
      ∃ t, exec (.claimWordWrite p a 0xF d) s = .next t ∧
        t.entry i = .retiring { address := h.address, ticket := h.ticket, payload := d.extractLsb' 0 16
                                writeBack := h.writeBack } ∧
        EntriesSameBut s t i ∧
        t.writeBackQueue = (if h.writeBack = none then s.writeBackQueue ++ [i] else s.writeBackQueue) ∧
        t.port p = replied ∧ PortsSameBut s t p ∧
        { t with ports := s.ports, table := s.table, writeBackQueue := s.writeBackQueue } = s) ∧
    (∀ w rest, h.waiters = w :: rest →
      ∃ t : State, exec (.claimWordWrite p a 0xF d) s = .next (t.endEvent s) ∧
        t.entry i = after.afterLoss ∧ EntriesSameBut s t i ∧
        NewHolderTold s t after w rest ∧
        t.port p = replied ∧ (∀ q, q ≠ p → q ≠ w.port → t.port q = s.port q) ∧
        (∀ q, q ≠ w.port → t.notice q = s.notice q) ∧
        { t with ports := s.ports, table := s.table, notices := s.notices } = s)

/-- A claim-word write that is neither a release nor a withdrawal is refused STALE. A full-word write by the holder with
another ticket, by a port not enrolled in QUEUE mode, or at a word with no HELD entry, completes FAULT, and a STALE record
carries the port, access write, both addresses and the written ticket; nothing else changes. -/
def Obligations.StaleWriteRefused : Prop :=
  ∀ (s : State) (p : Port) (a : LogAddr) (d : Word) (x : PhysAddr) (f : ClaimFields),
    s.Accepts p → (s.map p).translate a = .memory x (.claim f) →
    (∀ i h, s.entry i = .held h → h.address = x →
      (h.holder = p → h.ticket ≠ d.extractLsb' 16 8) ∧
      (h.holder ≠ p → ∀ w ∈ h.waiters, w.port = p → w.mode ≠ .queue)) →
    ∃ t, exec (.claimWordWrite p a 0xF d) s = .next t ∧ RepliedAtOnce s t p .writeFault ∧
      t.log = s.log.append { kind := .stale, port := some p, access := .write, logical := some a, physical := some x
                             ticket := some (d.extractLsb' 16 8) } ∧
      { t with ports := s.ports, log := s.log } = s

/-- A full-word write by a port enrolled in QUEUE mode withdraws the enrolment. Whatever ticket and payload it carries, the
port's record leaves the list, those behind it move up, and the write completes OK; nothing else changes. -/
def Obligations.WithdrawalLeavesList : Prop :=
  ∀ (s : State) (p : Port) (a : LogAddr) (d : Word) (f : ClaimFields) (i : Slot) (h : HeldEntry) (w : Waiter),
    s.Accepts p → (s.map p).translate a = .memory h.address (.claim f) → s.AddressesDistinct →
    s.entry i = .held h → h.holder ≠ p → w ∈ h.waiters → w.port = p → w.mode = .queue →
    ∃ t, exec (.claimWordWrite p a 0xF d) s = .next t ∧
      t.entry i = .held { h with waiters := h.waiters.filter fun v => v.port ≠ p } ∧ EntriesSameBut s t i ∧
      RepliedAtOnce s t p .written ∧ { t with ports := s.ports, table := s.table } = s

/-- Writes refused DENIED at acceptance. A write through a CLAIM segment without all four lanes, any write through a VIEW
segment, and any write through a READ-ONLY PLAIN segment complete FAULT, and a DENIED record carries the port, access
write, both addresses and no ticket; nothing else changes. -/
def Obligations.DeniedWriteRefused : Prop :=
  ∀ (s : State) (c : Instr) (p : Port) (a : LogAddr) (be : Lanes) (d : Word) (x : PhysAddr),
    s.Accepts p →
    ((c = .claimWordWrite p a be d ∧ be ≠ 0xF ∧ ∃ f, (s.map p).translate a = .memory x (.claim f)) ∨
      (c = .viewWrite p a be d ∧ (s.map p).translate a = .memory x .view) ∨
      (c = .plainWrite p a be d ∧ ∃ g, (s.map p).translate a = .memory x (.plain .readOnly g))) →
    ∃ t, exec c s = .next t ∧ RepliedAtOnce s t p .writeFault ∧
      t.log = s.log.append { kind := .denied, port := some p, access := .write, logical := some a, physical := some x
                             ticket := none } ∧
      { t with ports := s.ports, log := s.log } = s

/-! ### Views -/

/-- A view is answered from the entry of its word, or made from memory. FETCHING and HELD entries answer TAKEN, RETIRING
answers FREE with the retained ticket and payload, QUARANTINED answers BROKEN; a word without an entry becomes a queued view
read. The byte enables play no part, and no entry changes. -/
def Obligations.ViewAnsweredFromEntry : Prop :=
  ∀ (s : State) (p : Port) (a : LogAddr) (be : Lanes) (x : PhysAddr) (i : Slot),
    s.Accepts p → (s.map p).translate a = .memory x .view → s.AddressesDistinct →
    (∀ w, ((∃ q mark, s.entry i = .fetching x q mark ∧ w = replyWord .taken q 0 0 0) ∨
        (∃ h, s.entry i = .held h ∧ h.address = x ∧
          w = replyWord .taken h.holder h.waiters.length h.ticket h.payload) ∨
        (∃ r, s.entry i = .retiring r ∧ r.address = x ∧ w = replyWord .free p 0 r.ticket r.payload) ∨
        (∃ k l, s.entry i = .quarantined x k l ∧ w = replyWord .broken p 0 k 0)) →
      ∃ t, exec (.viewRead p a be) s = .next t ∧ RepliedAtOnce s t p (.data w) ∧ { t with ports := s.ports } = s) ∧
    ((∀ j, (s.entry j).address ≠ some x) →
      ∃ t, exec (.viewRead p a be) s = .next t ∧
        t.port p = { s.port p with
          presented := none
          phase := .queued { request := { direction := .read, logical := a, enables := be }, physical := x
                             target := .view, purpose := .viewRead } } ∧
        PortsSameBut s t p ∧ { t with ports := s.ports } = s)

/-! ### Plain accesses and translation -/

/-- A plain access that passes its checks is queued, and one that its guard refuses completes FAULT GUARD. A read, or a write
through a READ-WRITE segment, is queued where no guard applies or the guard word is HELD by the port; where a guard applies
and is not HELD by the port, a GUARD record carries the access's own addresses. -/
def Obligations.PlainAccessCheckedAndQueued : Prop :=
  ∀ (s : State) (p : Port) (a : LogAddr) (be : Lanes) (d : Word) (x : PhysAddr) (acc : PlainAccess) (g : Option Guard)
      (c : Instr) (dir : Direction) (purpose : Purpose) (field : AccessField),
    s.Accepts p → (s.map p).translate a = .memory x (.plain acc g) → s.AddressesDistinct →
    ((c = .plainRead p a be ∧ dir = .read ∧ purpose = .plainRead ∧ field = .read) ∨
      (c = .plainWrite p a be d ∧ acc = .readWrite ∧ dir = .write d ∧ purpose = .plainWrite ∧ field = .write)) →
    ((∀ u, g = some u → (field = .write ∨ u.readsToo = true) →
        ∃ i h, s.entry i = .held h ∧ h.address = u.address ∧ h.holder = p) →
      ∃ t, exec c s = .next t ∧
        t.port p = { s.port p with
          presented := none
          phase := .queued { request := { direction := dir, logical := a, enables := be }, physical := x
                             target := .plain acc g, purpose := purpose } } ∧
        PortsSameBut s t p ∧ { t with ports := s.ports } = s) ∧
    (∀ u, g = some u → (field = .write ∨ u.readsToo = true) →
        (¬ ∃ i h, s.entry i = .held h ∧ h.address = u.address ∧ h.holder = p) →
      ∃ t, exec c s = .next t ∧ RepliedAtOnce s t p dir.fault ∧
        t.log = s.log.append { kind := .guard, port := some p, access := field, logical := some a, physical := some x
                               ticket := none } ∧
        { t with ports := s.ports, log := s.log } = s)

/-- Translation. An OPEN port's address is its physical address, PLAIN, READ-WRITE and unguarded. In a sound list the record
that covers the page gives base frame times 1024 plus the address minus base page times 1024, with the fields of its kind, or
notice traffic; a page that no record covers is unmapped. Kind, access, claim mode and guard are read from the record's codes and
bits: bit 24 guard present, bit 25 guard reads too, the address below them. -/
def Obligations.TranslationFollowsSegment : Prop :=
  (∀ a : LogAddr, ∃ x : PhysAddr, PortMap.translate .openMode a = .memory x (.plain .readWrite none) ∧
    x.toNat = a.toNat) ∧
  (∀ (l : List Segment) (a : LogAddr),
    (∀ g ∈ l, ¬ (g.basePage.toNat ≤ a.toNat / 1024 ∧ a.toNat / 1024 < g.basePage.toNat + g.pageCount.toNat)) →
    PortMap.translate (.mapped l) a = .unmapped) ∧
  (∀ (l : List Segment) (g : Segment) (a : LogAddr), PortMap.sound (.mapped l) = true → g ∈ l →
    g.basePage.toNat ≤ a.toNat / 1024 → a.toNat / 1024 < g.basePage.toNat + g.pageCount.toNat →
    let guard : Option Guard :=
      if g.descriptor.getLsbD 24 then
        some { address := g.descriptor.extractLsb' 0 22, readsToo := g.descriptor.getLsbD 25 }
      else none
    (g.kindCode = 4 → PortMap.translate (.mapped l) a = .notice) ∧
    ∀ target : Target,
      ((g.kindCode = 1 ∧ g.attributeCode = 1 ∧ target = .plain .readOnly guard) ∨
        (g.kindCode = 1 ∧ g.attributeCode = 2 ∧ target = .plain .readWrite guard) ∨
        (g.kindCode = 2 ∧ g.attributeCode = 3 ∧ target = .claim { mode := .poll, lease := g.lease, limit := g.limit }) ∨
        (g.kindCode = 2 ∧ g.attributeCode = 4 ∧ target = .claim { mode := .queue, lease := g.lease, limit := g.limit }) ∨
        (g.kindCode = 2 ∧ g.attributeCode = 5 ∧ target = .claim { mode := .wait, lease := g.lease, limit := g.limit }) ∨
        (g.kindCode = 3 ∧ target = .view)) →
      ∃ x : PhysAddr, PortMap.translate (.mapped l) a = .memory x target ∧
        x.toNat + g.basePage.toNat * 1024 = g.baseFrame.toNat * 1024 + a.toNat)

/-! ### Notice accesses -/

/-- Accesses through the NOTICE segment. A read pops the oldest notice, or returns OVERFLOW and clears the marker, or returns
EMPTY, and leaves the attention-enable flag. A write acts by lane 0 alone: the flag takes bit 0, and bit 1 empties the queue and
clears the marker; without lane 0 it changes nothing. Both complete OK. -/
def Obligations.NoticeAccessesReadAndControl : Prop :=
  (∀ (s : State) (p : Port) (a : LogAddr) (be : Lanes), s.Accepts p → (s.map p).translate a = .notice →
     (∀ n rest, (s.notice p).queue = n :: rest →
       ∃ t, exec (.noticeRead p a be) s = .next t ∧ t.notice p = { s.notice p with queue := rest } ∧
         RepliedAtOnce s t p (.data (n.kind.code ++ portBits n.other ++ n.ticketBits ++ n.address)) ∧
         (∀ q, q ≠ p → t.notice q = s.notice q) ∧ { t with ports := s.ports, notices := s.notices } = s) ∧
     ((s.notice p).queue = [] → (s.notice p).overflow = true →
       ∃ t, exec (.noticeRead p a be) s = .next t ∧ t.notice p = { s.notice p with overflow := false } ∧
         RepliedAtOnce s t p (.data ((5 : BitVec 4) ++ portBits p ++ (0 : BitVec 26))) ∧
         (∀ q, q ≠ p → t.notice q = s.notice q) ∧ { t with ports := s.ports, notices := s.notices } = s) ∧
     ((s.notice p).queue = [] → (s.notice p).overflow = false →
       ∃ t, exec (.noticeRead p a be) s = .next t ∧
         RepliedAtOnce s t p (.data ((0 : BitVec 4) ++ portBits p ++ (0 : BitVec 26))) ∧ { t with ports := s.ports } = s)) ∧
  (∀ (s : State) (p : Port) (a : LogAddr) (be : Lanes) (d : Word), s.Accepts p → (s.map p).translate a = .notice →
     ∃ t, exec (.noticeControlWrite p a be d) s = .next t ∧
       (be.getLsbD 0 = false → t.notice p = s.notice p) ∧
       (be.getLsbD 0 = true → d.getLsbD 1 = false → t.notice p = { s.notice p with enable := d.getLsbD 0 }) ∧
       (be.getLsbD 0 = true → d.getLsbD 1 = true →
         t.notice p = { queue := [], overflow := false, enable := d.getLsbD 0 }) ∧
       RepliedAtOnce s t p .written ∧ (∀ q, q ≠ p → t.notice q = s.notice q) ∧
       { t with ports := s.ports, notices := s.notices } = s)

/-! ### Acceptance -/

/-- A request at a FENCED port, or one that no segment covers, is refused at acceptance. Whatever the access, the completion is
FAULT and a FENCED or UNMAPPED record carries the port, the access and the logical address presented, with no physical address
and no ticket; nothing else changes. -/
def Obligations.FencedAndUnmappedRequestsRefused : Prop :=
  (∀ (s : State) (c : Instr) (p : Port) (r : Request), Instr.access c = some (p, r) →
     s.partReset = false → (s.port p).resetAsserted = false → (s.port p).fence = true → s.quiesce = .running →
     (s.port p).phase = .idle →
     ∃ t, exec c s = .next t ∧ RepliedAtOnce s t p r.direction.fault ∧
       t.log = s.log.append { kind := .fenced, port := some p, access := r.direction.field, logical := some r.logical
                              physical := none, ticket := none } ∧
       { t with ports := s.ports, log := s.log } = s) ∧
  (∀ (s : State) (c : Instr) (p : Port) (r : Request) (l : List Segment), Instr.access c = some (p, r) →
     s.Accepts p → s.map p = .mapped l →
     (∀ g ∈ l, ¬ (g.basePage.toNat ≤ r.logical.toNat / 1024 ∧
       r.logical.toNat / 1024 < g.basePage.toNat + g.pageCount.toNat)) →
     ∃ t, exec c s = .next t ∧ RepliedAtOnce s t p r.direction.fault ∧
       t.log = s.log.append { kind := .unmapped, port := some p, access := r.direction.field, logical := some r.logical
                              physical := none, ticket := none } ∧
       { t with ports := s.ports, log := s.log } = s)

/-- A request that its port does not take stays presented, and is taken when the last condition comes to hold. While the part is
not RUNNING, the port not IDLE or part reset held, the request is on the pins and nothing else changes; a master in reset presents
nothing. After an event no request is left at a port that came to take requests; where one alone waited there, it is taken as the
same access presented then would be, and where none did, nothing more happens. The model's choices: that a later presentation
replaces an earlier one (log 9), and that part reset holds requests back (log 10). -/
def Obligations.RequestWaitsUntilTaken : Prop :=
  (∀ (s : State) (c : Instr) (p : Port) (r : Request), Instr.access c = some (p, r) →
     ((s.port p).resetAsserted = true → exec c s = .next s) ∧
     ((s.port p).resetAsserted = false → (s.partReset = true ∨ s.quiesce ≠ .running ∨ (s.port p).phase ≠ .idle) →
       ∃ t, exec c s = .next t ∧ t.port p = { s.port p with presented := some r } ∧ PortsSameBut s t p ∧
         { t with ports := s.ports } = s)) ∧
  (∀ s before : State,
     (∀ p, (s.takeReady before).takes p = true → before.takes p = false → ((s.takeReady before).port p).presented = none) ∧
     ((∀ p, s.takes p = true → before.takes p = false → (s.port p).presented = none) → s.takeReady before = s) ∧
     (∀ c p r, Instr.access c = some (p, r) → s.takes p = true → before.takes p = false → (s.port p).presented = some r →
       (∀ q, q ≠ p → s.takes q = true → before.takes q = false → (s.port q).presented = none) →
       ∃ t : State, exec c s = .next (t.takeReady s) ∧ s.takeReady before = t.takeReady before)) ∧
  (∀ (s : State) (p : Port), s.takes p = true ↔
     s.partReset = false ∧ (s.port p).resetAsserted = false ∧ s.quiesce = .running ∧ (s.port p).phase = .idle)

/-! ### The memory port -/

/-- A grant goes to the first present requester after the pointer, and no other is then farther away. A port is present exactly
while it is QUEUED, the write-back requester while its queue is not empty. With the part out of reset, no operation in flight and
a requester present, some requester stands next; the grant sets the pointer to it, and every other present requester moves nearer
in the search. Busy, in reset or with none present, no grant is made. That reset holds grants back is inferred (log 10), and that
the command then changes nothing is the model's choice (log 13). -/
def Obligations.GrantFollowsRoundRobin : Prop :=
  (∀ s : State, s.MemoryFree → (∃ q, s.requests q = true) → ∃ q, s.Next q ∧
    ∃ t, exec .arbiterGrant s = .next t ∧ t.memPort.pointer = q ∧
      ∀ r, r ≠ q → s.requests r = true →
        Requester.distance t.memPort.pointer r < Requester.distance s.memPort.pointer r) ∧
  ((∀ s : State, (s.partReset = true ∨ s.memPort.operation ≠ none ∨ ∀ q, s.requests q = false) →
     exec .arbiterGrant s = .next s) ∧
   (∀ (s : State) (p : Port), s.requests (.port p) = true ↔ ∃ t, (s.port p).phase = .queued t) ∧
   ∀ s : State, s.requests .writeBack = true ↔ s.writeBackQueue ≠ [])

/-- A grant to a port issues its operation, or refuses a plain write CLAIMWORD. Reads, fetches and views are issued whatever
the table holds, a plain write where its word has no entry; the phase becomes IN-MEMORY. A plain write whose word has an
entry completes FAULT with a CLAIMWORD record, and the memory port stays idle. -/
def Obligations.GrantToPortIssues : Prop :=
  ∀ (s : State) (p : Port) (t : Transaction), s.MemoryFree → (s.port p).phase = .queued t → s.Next (.port p) →
    (∀ work,
      ((t.purpose = .plainRead ∧ work = .plainRead) ∨ (t.purpose = .grantFetch ∧ work = .grantFetch) ∨
        (t.purpose = .viewRead ∧ work = .viewRead) ∨
        (∃ d, t.purpose = .plainWrite ∧ t.request.direction = .write d ∧
          (∀ i, (s.entry i).address ≠ some t.physical) ∧ work = .plainWrite t.request.enables d)) →
      ∃ u, exec .arbiterGrant s = .next u ∧
        u.memPort = { operation := some (.ofPort p work t.physical false), pointer := .port p } ∧
        u.port p = { s.port p with phase := .inMemory t } ∧ PortsSameBut s u p ∧
        { u with ports := s.ports, memPort := s.memPort } = s) ∧
    (∀ d i, t.purpose = .plainWrite → t.request.direction = .write d → (s.entry i).address = some t.physical →
      ∃ u : State, exec .arbiterGrant s = .next (u.endEvent s) ∧ u.memPort = { operation := none, pointer := .port p } ∧
        Completed s u p .writeFault ∧
        u.log = s.log.append { kind := .claimword, port := some p, access := .write, logical := some t.request.logical
                               physical := some t.physical, ticket := none } ∧
        { u with ports := s.ports, memPort := s.memPort, log := s.log } = s)

/-- A grant to the write-back requester takes the head slot and issues the claim word. The slot leaves the queue, the entry
stays RETIRING with its write-back in flight, its ticket captured and the regranted mark clear, and the word written has
bits 31 to 24 zero, then the ticket, then the payload. -/
def Obligations.GrantIssuesWriteBack : Prop :=
  ∀ (s : State) (i : Slot) (rest : List Slot) (r : RetiringEntry), s.MemoryFree → s.Next .writeBack →
    s.writeBackQueue = i :: rest → s.entry i = .retiring r →
    ∃ t, exec .arbiterGrant s = .next t ∧ t.writeBackQueue = rest ∧
      t.entry i = .retiring { r with writeBack := some { written := r.ticket, regranted := false } } ∧
      EntriesSameBut s t i ∧
      (∃ d : Word, t.memPort = { operation := some (.ofWriteBack i r.address d), pointer := .writeBack } ∧
        d.extractLsb' 24 8 = 0 ∧ d.extractLsb' 16 8 = r.ticket ∧ d.extractLsb' 0 16 = r.payload) ∧
      { t with table := s.table, writeBackQueue := s.writeBackQueue, memPort := s.memPort } = s

/-- The completion of a port's plain or view operation without an error is returned to the port, unless it was given up. A
plain read returns the whole word, lane l in bits 8l to 8l + 7; a plain write has changed the enabled lanes of its word and no other byte, given up or
not; a view completes FREE with the stored ticket and payload. A given-up operation returns nothing. That a
write is performed at its completion (log 3), and that either completion row completes the operation in flight (log 7), is
inferred. -/
def Obligations.PortCompletionReturned : Prop :=
  (∀ (m : List Host.Cell) (x : PhysAddr) (l : Nat), l < 4 →
    (readWord m x).extractLsb' (8 * l) 8 = readCell m (4 * x.toNat + l)) ∧
  ∀ (s : State) (p : Port) (x : PhysAddr) (c : Instr),
    (c = .plainAccessCompletion false ∨ c = .viewReadCompletion false) →
    (∀ t work r, s.memPort.operation = some (.ofPort p work x false) → (s.port p).phase = .inMemory t →
      ((work = .plainRead ∧ r = readWord s.bank x) ∨
        (work = .viewRead ∧ r = (9 : BitVec 4) ++ portBits p ++ (0 : BitVec 2) ++ (readWord s.bank x).extractLsb' 0 24)) →
      ∃ u : State, exec c s = .next (u.endEvent s) ∧ Completed s u p (.data r) ∧ u.memPort = { s.memPort with operation := none } ∧
        { u with ports := s.ports, memPort := s.memPort } = s) ∧
    (∀ t be d, s.BankSound → s.memPort.operation = some (.ofPort p (.plainWrite be d) x false) → (s.port p).phase = .inMemory t →
      ∃ u : State, exec c s = .next (u.endEvent s) ∧ Completed s u p .written ∧ BankWritten s.bank u.bank x be d ∧
        u.memPort = { s.memPort with operation := none } ∧
        { u with ports := s.ports, memPort := s.memPort, bank := s.bank } = s) ∧
    (∀ work, s.memPort.operation = some (.ofPort p work x true) → work = .plainRead ∨ work = .viewRead →
      ∃ u, exec c s = .next u ∧ u.memPort = { s.memPort with operation := none } ∧
        { u with memPort := s.memPort } = s) ∧
    (∀ be d, s.BankSound → s.memPort.operation = some (.ofPort p (.plainWrite be d) x true) →
      ∃ u, exec c s = .next u ∧ BankWritten s.bank u.bank x be d ∧
        u.memPort = { s.memPort with operation := none } ∧ { u with memPort := s.memPort, bank := s.bank } = s)

/-- The completion of a port's plain or view operation with a memory error is FAULT MEMORY, unless it was given up. A MEMORY
record carries the port, the access and the addresses of the transaction; a given-up operation makes no record and no
reply. No byte outside the word of a failed write changes; what that word holds is a free value (log 4). That either
completion row completes the operation in flight is inferred (log 7). -/
def Obligations.PortCompletionErrorFaults : Prop :=
  ∀ (s : State) (p : Port) (x : PhysAddr) (work : PortWork) (c : Instr),
    (c = .plainAccessCompletion true ∨ c = .viewReadCompletion true) → work ≠ .grantFetch →
    (∀ t, s.memPort.operation = some (.ofPort p work x false) → (s.port p).phase = .inMemory t →
      ∃ u : State, exec c s = .next (u.endEvent s) ∧ Completed s u p t.request.direction.fault ∧
        u.log = s.log.append { kind := .memory, port := some p, access := t.request.direction.field
                               logical := some t.request.logical, physical := some t.physical, ticket := none } ∧
        BankSameBut s.bank u.bank x ∧ (work = .plainRead ∨ work = .viewRead → u.bank = s.bank) ∧
        u.memPort = { s.memPort with operation := none } ∧
        { u with ports := s.ports, memPort := s.memPort, log := s.log, bank := s.bank, freeIndex := s.freeIndex } = s) ∧
    (s.memPort.operation = some (.ofPort p work x true) →
      ∃ u, exec c s = .next u ∧ BankSameBut s.bank u.bank x ∧
        (work = .plainRead ∨ work = .viewRead → u.bank = s.bank) ∧
        u.memPort = { s.memPort with operation := none } ∧
        { u with memPort := s.memPort, bank := s.bank, freeIndex := s.freeIndex } = s)

/-- A grant fetch completes by its entry's orphan mark. With data, NONE makes the entry HELD with the stored ticket plus one, the
stored payload and the lease carried, and the read completes GRANTED; FENCED frees it, and the read completes FAULT with a FENCED
record; OFFLINE frees it, with no reply and no record. An error frees it with a MEMORY record, FAULT to a port not OFFLINE and,
FENCED, a FENCED record after. Memory is unchanged. Grants that refuse plain writes
CLAIMWORD may be made before the completion, as free values decide (QueriedFirst, log 22); where the next grant refuses none, `e`
is the idle state. -/
def Obligations.GrantFetchCompletesByMark : Prop :=
  ∀ (s : State) (p : Port) (x : PhysAddr) (g : Bool) (i : Slot) (mark : OrphanMark), s.AddressesDistinct →
    s.memPort.operation = some (.ofPort p .grantFetch x g) → s.entry i = .fetching x p mark →
    let record (kind : FaultKind) (t : Transaction) : FaultRecord :=
      { kind := kind, port := some p, access := t.request.direction.field, logical := some t.request.logical
        physical := some t.physical, ticket := none }
    let idle : State := { s with memPort := { s.memPort with operation := none } }
    let Frame (e u : State) : Prop := EntriesSameBut s u i ∧
      { u with ports := e.ports, table := e.table, log := e.log } = e
    (let w := readWord s.bank x
     ∃ e u : State, QueriedFirst idle e ∧ exec (.grantFetchCompletion false) s = .next (u.endEvent s) ∧ Frame e u ∧
       (∀ t f, mark = .none → (s.port p).phase = .inMemory t → t.target = .claim f →
         u.entry i = .held
           { address := x, holder := p, ticket := w.extractLsb' 16 8 + 1, payload := w.extractLsb' 0 16
             lease := if f.lease = 0 then none else some { length := f.lease, remaining := f.lease }
             waiters := [], writeBack := none } ∧
         Completed e u p (.data (replyWord .granted p 0 (w.extractLsb' 16 8 + 1) (w.extractLsb' 0 16))) ∧
         u.log = e.log) ∧
       (∀ t, mark = .fenced → (s.port p).phase = .inMemory t →
         u.entry i = .free ∧ Completed e u p t.request.direction.fault ∧ u.log = e.log.append (record .fenced t)) ∧
       (mark = .offline → u.entry i = .free ∧ u.ports = e.ports ∧ u.log = e.log)) ∧
    (∃ e u : State, QueriedFirst idle e ∧ exec (.grantFetchCompletion true) s = .next (u.endEvent s) ∧ Frame e u ∧
       u.entry i = .free ∧
       (∀ t, mark = .none → (s.port p).phase = .inMemory t →
         Completed e u p t.request.direction.fault ∧ u.log = e.log.append (record .memory t)) ∧
       (∀ t, mark = .fenced → (s.port p).phase = .inMemory t →
         Completed e u p t.request.direction.fault ∧ u.log = (e.log.append (record .memory t)).append (record .fenced t)) ∧
       (mark = .offline → u.ports = e.ports ∧
         u.log = e.log.append { kind := .memory, port := some p, access := .read, logical := none, physical := some x
                                ticket := none }))

/-- A write-back completes by its entry. Without an error all four lanes are written; RETIRING and not regranted, the entry becomes
FREE. With an error a WRITEBACK record has no port, access write, the claim word and the written ticket; RETIRING and not
regranted, the entry becomes QUARANTINED with its ticket and payload. Either way, regranted, its slot joins the tail of the queue
again; HELD, it stays HELD with write-back state NONE. That the bank is written at the completion is inferred (log 3); a failed
write leaves other words as they were, which is the model's choice with its free value (log 4). Grants that refuse plain writes
CLAIMWORD may be made before the completion, as free values decide (QueriedFirst, log 22); where the next grant refuses none, `e`
is the idle state. -/
def Obligations.WriteBackCompletes : Prop :=
  ∀ (s : State) (i : Slot) (x : PhysAddr) (d : Word), s.memPort.operation = some (.ofWriteBack i x d) →
    ((∃ r b, s.entry i = .retiring r ∧ r.writeBack = some b) ∨ ∃ h, s.entry i = .held h) →
    let idle : State := { s with memPort := { s.memPort with operation := none } }
    let Stays (t : State) : Prop :=
      (∀ r b, s.entry i = .retiring r → r.writeBack = some b → b.regranted = true →
        t.entry i = .retiring { r with writeBack := none } ∧ t.writeBackQueue = s.writeBackQueue ++ [i]) ∧
      (∀ h, s.entry i = .held h → t.entry i = .held { h with writeBack := none } ∧ t.writeBackQueue = s.writeBackQueue)
    (s.BankSound →
      ∃ e t : State, QueriedFirst idle e ∧ exec (.writeBackCompletion false) s = .next (t.endEvent s) ∧
        EntriesSameBut s t i ∧ BankWritten s.bank t.bank x 0xF d ∧
        { t with table := e.table, writeBackQueue := e.writeBackQueue, bank := e.bank } = e ∧ Stays t ∧
        (∀ r b, s.entry i = .retiring r → r.writeBack = some b → b.regranted = false →
          t.entry i = .free ∧ t.writeBackQueue = s.writeBackQueue)) ∧
    (∃ e t : State, QueriedFirst idle e ∧ exec (.writeBackCompletion true) s = .next (t.endEvent s) ∧
       EntriesSameBut s t i ∧ BankSameBut s.bank t.bank x ∧
       t.log = e.log.append { kind := .writeback, port := none, access := .write, logical := none, physical := some x
                              ticket := some (d.extractLsb' 16 8) } ∧
       { t with table := e.table, writeBackQueue := e.writeBackQueue, log := e.log, bank := e.bank
                freeIndex := e.freeIndex } = e ∧ Stays t ∧
       (∀ r b, s.entry i = .retiring r → r.writeBack = some b → b.regranted = false →
         t.entry i = .quarantined r.address r.ticket r.payload ∧ t.writeBackQueue = s.writeBackQueue))

/-- A completion at an entry and the query of a plain write granted next come in either order. For every completion of a grant fetch
or a write-back, with an error or without, whatever the mark or the state of its entry, and a next grant to a plain write to its
word or to another word with an entry, a free value decides (log 22). The write stays QUEUED for a later grant; or its grant is
made first, and it completes FAULT with a CLAIMWORD record that goes to the log before those of the completion. The entry is
decided the same way in both orders. That the bank is written at the completion is inferred (log 3), and a failed write leaves
other words as they were, which is the model's choice with its free value (log 4). -/
def Obligations.CompletionAndNextWriteEitherOrder : Prop :=
  ∀ (s : State) (c : Instr) (error : Bool) (i : Slot) (x : PhysAddr) (q : Port) (t : Transaction),
    s.AddressesDistinct → s.RefusalNext q t →
    ((∃ p g mark, c = .grantFetchCompletion error ∧ s.memPort.operation = some (.ofPort p .grantFetch x g) ∧
        s.entry i = .fetching x p mark) ∨
      (∃ d, c = .writeBackCompletion error ∧ s.memPort.operation = some (.ofWriteBack i x d) ∧ (s.entry i).inFlight ≠ none)) →
    ∃ u : State, exec c s = .next (u.endEvent s) ∧ EntriesSameBut s u i ∧ u.memPort.operation = none ∧
      { u with ports := s.ports, table := s.table, writeBackQueue := s.writeBackQueue, memPort := s.memPort, log := s.log
               bank := s.bank, freeIndex := s.freeIndex } = s ∧
      (Config.order s.freeIndex % 2 = 0 → u.port q = s.port q ∧ u.memPort.pointer = s.memPort.pointer) ∧
      (Config.order s.freeIndex % 2 ≠ 0 →
        u.port q = { s.port q with phase := .idle, replies := (s.port q).replies ++ [t.request.direction.fault] } ∧
        ∃ records : List FaultRecord, u.log = records.foldl FaultLog.append
          (s.log.append { kind := .claimword, port := some q, access := t.request.direction.field
                          logical := some t.request.logical, physical := some t.physical, ticket := none })) ∧
      (∀ p mark, s.entry i = .fetching x p mark → u.bank = s.bank ∧
        (error = true ∨ mark ≠ .none → u.entry i = .free) ∧
        (error = false → mark = .none → (∃ v, (s.port p).phase = .inMemory v) →
          ∃ h, u.entry i = .held h ∧ h.address = x ∧ h.holder = p)) ∧
      (∀ d, s.memPort.operation = some (.ofWriteBack i x d) → BankSameBut s.bank u.bank x ∧
        (error = false → s.BankSound → BankWritten s.bank u.bank x 0xF d) ∧
        (∀ h, s.entry i = .held h → u.entry i = .held { h with writeBack := none }) ∧
        (∀ r b, s.entry i = .retiring r → r.writeBack = some b → u.entry i =
          if b.regranted then .retiring { r with writeBack := none }
          else if error then .quarantined r.address r.ticket r.payload else .free))

/-! ### Time -/

/-- The divider counts TBCLK periods down, and a tick reaches every running count and nothing else. Both commands of the time base
are a TBCLK period (log 8). A period that finds the divider at 1 reloads it with the divisor and makes a tick: every running count
is one less, and those that end have expired within the tick, in an order that is free at one entry (R61). That one step takes the
tick at every entry with all its expiries is the model's choice (log 11). A tick that ends no count changes counts alone. -/
def Obligations.TbclkPeriodsMakeTicks : Prop :=
  ∀ (s : State) (c : Instr), (c = .tbclkPeriod ∨ c = .tick) →
    (s.partReset = true → exec c s = .next s) ∧
    (s.partReset = false → s.divider ≠ 1 → exec c s = .next { s with divider := s.divider - 1 }) ∧
    (s.TickNext → s.ListsSound →
      ∃ t : State, exec c s = .next (t.endEvent s) ∧ t.divider = s.divisor ∧
        { t with ports := s.ports, table := s.table, writeBackQueue := s.writeBackQueue, notices := s.notices
                 divider := s.divider, log := s.log, freeIndex := s.freeIndex } = s ∧
        (∀ i, (∀ h, s.entry i ≠ .held h) → t.entry i = s.entry i) ∧
        (∀ i h, s.entry i = .held h → h.TickedTo (t.entry i)) ∧
        (s.EndsAtMost 0 false 0 false → { t with table := s.table, divider := s.divider } = s))

/-- A lease that reaches 0 ends its holder's claim. The claim passes on to the head waiter, who is told, or the entry retires;
the former holder is sent EXPIRED naming the new holder, or itself, with the ticket now current, and an EXPIRED record holds
its port and the ticket of the grant that ended. Its port is not touched, and every other count is one less. The rows LEASE_EXPIRY,
TICK and TBCLK_PERIOD are the period in which this comes about, and where the next period ends no lease in the slot, LEASE_EXPIRY
changes nothing, which are the model's choices (log 11, log 13). -/
def Obligations.LeaseExpiryPassesClaimOn : Prop :=
  (∀ (s : State) (c : Instr) (i : Slot) (h : HeldEntry), (c = .leaseExpiry i ∨ c = .tick ∨ c = .tbclkPeriod) →
     s.TickNext → s.ListsSound → s.entry i = .held h → h.leaseAt 1 = true → s.EndsAtMost i true 0 false →
     ∃ t : State, exec c s = .next (t.endEvent s) ∧ t.entry i = h.counted.afterLoss ∧
       (∀ j, j ≠ i → t.entry j = (s.entry j).counted) ∧ t.divider = s.divisor ∧
       t.writeBackQueue = (if h.queuesAtLoss then s.writeBackQueue ++ [i] else s.writeBackQueue) ∧
       t.log = s.log.append { kind := .expired, port := some h.holder, access := .none, logical := none
                              physical := some h.address, ticket := some h.ticket } ∧
       t.notice h.holder = (if (s.port h.holder).resetAsserted then s.notice h.holder
         else (s.notice h.holder).arrive { kind := .expired, other := h.nextHolder
                                           ticketBits := h.nextTicket.extractLsb' 0 4, address := h.address }) ∧
       (h.waiters = [] → t.ports = s.ports ∧ ∀ q, q ≠ h.holder → t.notice q = s.notice q) ∧
       (∀ w rest, h.waiters = w :: rest → NewHolderTold s t h w rest ∧
         (∀ q, q ≠ w.port → t.port q = s.port q) ∧ ∀ q, q ≠ w.port → q ≠ h.holder → t.notice q = s.notice q) ∧
       { t with ports := s.ports, table := s.table, writeBackQueue := s.writeBackQueue, notices := s.notices
                divider := s.divider, log := s.log } = s) ∧
  (∀ (s : State) (i : Slot), (¬ s.TickNext ∨ ∀ h, s.entry i = .held h → h.leaseAt 1 = false) →
     exec (.leaseExpiry i) s = .next s)

/-- A wait count that reaches 0 ends its stalled read with TIMEOUT. The record leaves the list, the reply names the holder and
carries the entry's ticket, and the port is IDLE; no notice and no record comes of it, and every other count is one less. Where
one tick ends the lease too and the wait is the head's, LEASE_EXPIRY takes the lease first, and the head is granted the claim;
WAIT_EXPIRY takes the wait first, and the claim passes to the record behind, or the entry retires (R61). The rows are the period
in which this comes about, and without the occasion WAIT_EXPIRY changes nothing: the model's choices (log 11, log 13). -/
def Obligations.WaitExpiryTimesOut : Prop :=
  (∀ (s : State) (c : Instr) (p : Port) (i : Slot) (h : HeldEntry) (w : Waiter),
     (c = .waitExpiry p ∨ c = .tick ∨ c = .tbclkPeriod) →
     s.TickNext → s.ListsSound → s.entry i = .held h → w ∈ h.waiters → w.port = p → w.waitAt 1 = true →
     s.EndsAtMost i false p true →
     ∃ t : State, exec c s = .next (t.endEvent s) ∧
       t.entry i = .held { h.counted with waiters := (h.waiters.filter fun v => v.port ≠ p).map Waiter.counted } ∧
       (∀ j, j ≠ i → t.entry j = (s.entry j).counted) ∧ t.divider = s.divisor ∧
       Completed s t p (.data (replyWord .timeout h.holder 0 h.ticket 0)) ∧
       { t with ports := s.ports, table := s.table, divider := s.divider } = s) ∧
  (∀ (s : State) (i : Slot) (h : HeldEntry) (w : Waiter) (rest : List Waiter),
     s.TickNext → s.ListsSound → s.entry i = .held h → h.leaseAt 1 = true → h.waiters = w :: rest → w.waitAt 1 = true →
     s.EndsAtMost i true w.port true →
     (∃ t : State, exec (.leaseExpiry i) s = .next (t.endEvent s) ∧ t.entry i = h.counted.afterLoss ∧
       t.port w.port = { s.port w.port with
         phase := .idle
         replies := (s.port w.port).replies ++
           [.data (replyWord .granted w.port rest.length (h.ticket + 1) h.payload)] }) ∧
     (∃ t : State, exec (.waitExpiry w.port) s = .next (t.endEvent s) ∧
       t.entry i = HeldEntry.afterLoss { h with waiters := rest.map Waiter.counted } ∧
       t.port w.port = { s.port w.port with
         phase := .idle
         replies := (s.port w.port).replies ++ [.data (replyWord .timeout h.holder 0 h.ticket 0)] })) ∧
  (∀ (s : State) (p : Port), (¬ s.TickNext ∨ ∀ i h, s.entry i = .held h → ∀ w ∈ h.waiters, w.port = p → w.waitAt 1 = false) →
     exec (.waitExpiry p) s = .next s)

/-! ### Resets -/

/-- Assertion of a port's reset input ends its holdings and its transaction. Its notices, marker and flag are cleared, its waiter
records leave every list, its claims pass on or retire in ascending slot order, its phase is IDLE and no completion is returned;
its fence flag and map stand, and the fault log is not reached. A QUEUED grant fetch frees its entry, an IN-MEMORY one is marked
OFFLINE, an IN-MEMORY plain or view operation of the port is given up; every other FETCHING entry and the operation stand. -/
def Obligations.PortResetEndsHoldings : Prop :=
  ∀ (s : State) (p : Port), (s.port p).resetAsserted = false →
    ∃ t : State, exec (.portResetAsserted p) s = .next (t.endEvent s) ∧
      t.port p = { s.port p with phase := .idle, resetAsserted := true, presented := none } ∧
      t.notice p = { queue := [], overflow := false, enable := false } ∧
      (∀ i, (∀ a q mark, s.entry i ≠ .fetching a q mark) → t.entry i = (s.entry i).afterLeaving p true) ∧
      t.writeBackQueue = s.writeBackQueue ++ slots.filter (fun i => (s.entry i).queuesLeaving p true) ∧
      { t with ports := s.ports, table := s.table, writeBackQueue := s.writeBackQueue, notices := s.notices
               memPort := s.memPort } = s ∧
      (s.AddressesDistinct → t.memPort.pointer = s.memPort.pointer ∧
        (∀ u, (s.port p).phase = .queued u →
          t.memPort.operation = s.memPort.operation ∧
          ∀ i a q mark, s.entry i = .fetching a q mark →
            t.entry i = if u.purpose = .grantFetch ∧ a = u.physical then .free else s.entry i) ∧
        (∀ u, (s.port p).phase = .inMemory u →
          (u.purpose ≠ .grantFetch → ∀ work a g, s.memPort.operation = some (.ofPort p work a g) →
            t.memPort.operation = some (.ofPort p work a true)) ∧
          (u.purpose = .grantFetch → t.memPort.operation = s.memPort.operation) ∧
          ∀ i a q mark, s.entry i = .fetching a q mark →
            t.entry i = if u.purpose = .grantFetch ∧ a = u.physical then .fetching a q .offline else s.entry i) ∧
        ((s.port p).phase = .idle ∨ (∃ u, (s.port p).phase = .stalled u) →
          t.memPort.operation = s.memPort.operation ∧
          ∀ i a q mark, s.entry i = .fetching a q mark → t.entry i = s.entry i))

/-- Claims lost together by one event are handed on in ascending slot order. At a port reset, and at a FENCE with revoke that
the link takes, the QUEUE heads of the port's claims are sent HANDOFF and the reads of the WAIT heads complete GRANTED, slot
by slot, and every other port is left as it was. -/
def Obligations.ClaimsHandedOnInSlotOrder : Prop :=
  (∀ (s : State) (p : Port), (s.port p).resetAsserted = false →
    ∃ t : State, exec (.portResetAsserted p) s = .next (t.endEvent s) ∧ HandedOn s t p) ∧
  (∀ (s : State) (p : Port) (seq : Byte), s.LinkTakes →
    ∃ t : State, exec (.fence seq (BitVec.ofNat 8 p.val) 1) s = .next (t.endEvent s) ∧ HandedOn s t p ∧ t.notice p = s.notice p)

/-- Part reset clears the part. Every port is IDLE with its fence flag clear and OPEN, every entry FREE, every queue, marker,
flag, the log and the link's state are empty, the divisor and the divider are 10, the pointer names the write-back requester;
a write in flight has been performed or not, and no other byte of the bank changes. -/
def Obligations.PartResetClearsPart : Prop :=
  ∀ s : State, ∃ t, exec .partReset s = .next t ∧
    (∀ p, t.port p = { s.port p with phase := .idle, fence := false } ∧ t.map p = .openMode ∧
      t.notice p = { queue := [], overflow := false, enable := false } ∧ t.attention p = false) ∧
    (∀ i, t.entry i = .free) ∧ t.writeBackQueue = [] ∧ t.divisor = 10 ∧ t.divider = 10 ∧
    t.memPort = { operation := none, pointer := .writeBack } ∧ t.log = { records := [], dropped := 0 } ∧
    t.link.process = none ∧ t.link.slot = none ∧ t.link.outcome = .none ∧ t.quiesce = .running ∧ t.partReset = true ∧
    (∀ sel, t.link.selection = some sel → sel.disregarded = true) ∧
    ((∀ op, s.memPort.operation = some op → op.writes = none) → t.bank = s.bank) ∧
    (∀ op a be d, s.BankSound → s.memPort.operation = some op → op.writes = some (a, be, d) →
      t.bank = s.bank ∨ BankWritten s.bank t.bank a be d)

/-- Releasing a reset input changes that input, and requests that waited for it are taken; while part reset is held the part takes
nothing. A released port is FENCED or ONLINE by its flag. In part reset a request is not taken but stays presented, no grant is made, no TBCLK period counts,
no command or frame is taken and a selection receives and sends nothing; of requests and grants that is inferred (log 10), and that the
serial output sends nothing is the model's choice (log 14). -/
def Obligations.ResetInputsReleasedAndHeld : Prop :=
  ((∀ (s : State) (p : Port),
     ∃ t : State, exec (.portResetDeasserted p) s = .next (t.endEvent s) ∧ t.port p = { s.port p with resetAsserted := false } ∧
       PortsSameBut s t p ∧ { t with ports := s.ports } = s ∧
       (t.port p).condition = (if (s.port p).fence then .fenced else .online)) ∧
   (∀ s : State, exec .partResetReleased s = .next (State.endEvent { s with partReset := false } s)) ∧
   (∀ (s : State) (p : Port), (s.port p).resetAsserted = true → (s.port p).condition = .offline)) ∧
  (∀ s : State, s.partReset = true →
     (∀ c p r, Instr.access c = some (p, r) → (s.port p).resetAsserted = false →
       ∃ t, exec c s = .next t ∧ t.port p = { s.port p with presented := some r } ∧ PortsSameBut s t p ∧
         { t with ports := s.ports } = s) ∧
     (∀ c, (c = .arbiterGrant ∨ c = .tbclkPeriod ∨ c = .tick ∨ (∃ bytes, c = .frame bytes) ∨
         (∃ cmd seq, c = Command.row seq cmd)) → exec c s = .next s) ∧
     (∀ bytes extra, ∃ t, exec (.selection (.whole bytes extra)) s = .next t ∧ { t with link := s.link } = s ∧
       (s.link.selection = none → t.link = { s.link with sdo := [] })))

/-! ### Selections and frames -/

/-- A selection without a frame shifts out the status byte, then the READY response whole, then zeros. Each byte goes most
significant bit first. The status byte has
command in process, response ready, three zeros and the last outcome; the slot becomes EMPTY exactly where the last byte of
the response was shifted out; nothing else of the part changes. -/
def Obligations.SelectionShiftsResponseOut : Prop :=
  (∀ (b : Byte) (k : Nat), k < 8 → (byteBits b)[k]? = some (b.getLsbD (7 - k))) ∧
  ∀ (s : State) (bytes : List Byte) (extra : Nat), s.partReset = false → s.link.selection = none →
    (bytes = [] ∨ bytes.head? = some 0) → extra < 8 →
    ∃ t, exec (.selection (.whole bytes extra)) s = .next t ∧ { t with link := s.link } = s ∧
      ∃ status : Byte,
        status.getLsbD 7 = s.link.process.isSome ∧ status.getLsbD 6 = s.link.slot.isSome ∧
        status.extractLsb' 3 3 = 0 ∧ status.extractLsb' 0 3 = s.link.outcome.code ∧
        t.link.sdo = (byteBits status ++ bitsOf (s.link.slot.elim [] Response.bytes)
          ++ List.replicate (8 * bytes.length + extra) false).take (8 * bytes.length + extra) ∧
        t.link.slot = (if 1 + (s.link.slot.elim [] Response.bytes).length ≤ bytes.length then none else s.link.slot) ∧
        { t.link with sdo := s.link.sdo, slot := s.link.slot } = s.link

/-- A whole selection is its events one by one, and is its output followed by its frame. Select, the clock periods of the bytes'
bits and of up to seven further bits, and release leave the same state; and the selection that carries a frame is the selection
of as many zero bytes, whose output is settled, followed by the frame. Both forms of the command are the model's (log 14). -/
def Obligations.SelectionIsItsEventsAndItsFrame : Prop :=
  (∀ (s : State) (bytes : List Byte) (further : List Bool), s.link.selection = none → further.length < 8 →
     execAll (.selection .select :: ((bytes.flatMap byteBits ++ further).map fun b => .selection (.clock b))
         ++ [.selection .release]) s =
       exec (.selection (.whole bytes further.length)) s) ∧
  (∀ (s : State) (bytes : List Byte) (extra : Nat), s.partReset = false → s.link.selection = none → extra < 8 →
     ∃ t, exec (.selection (.whole (bytes.map fun _ => 0) extra)) s = .next t ∧
       exec (.selection (.whole bytes extra)) s = exec (.frame bytes) t)

/-- The checks of a frame, each with its outcome. A length byte above 250 or an end before the check byte gives
REJECTED-LENGTH, a sum other than zero REJECTED-CHECK, a command in process REJECTED-BUSY, a payload of another length than the
command requires REJECTED-LENGTH, and any other frame is ACCEPTED; no bytes, or a first byte 00H, is no frame. A rejected frame
changes the outcome alone. -/
def Obligations.FrameChecksRejectInOrder : Prop :=
  ∀ (s : State), s.partReset = false →
    (∀ rest, exec (.frame []) s = .next s ∧ exec (.frame (0 :: rest)) s = .next s) ∧
    (∀ code, code ≠ 0 → ∀ rest : List Byte, rest.length < 2 →
      exec (.frame (code :: rest)) s = .next { s with link := { s.link with outcome := .rejectedLength } }) ∧
    (∀ code seq n body, code ≠ 0 → 250 < n.toNat ∨ body.length ≤ n.toNat →
      exec (.frame (code :: seq :: n :: body)) s =
        .next { s with link := { s.link with outcome := .rejectedLength } }) ∧
    (∀ code seq n (payload : List Byte) (check : Byte) beyond, code ≠ 0 → n.toNat ≤ 250 → payload.length = n.toNat →
      let sum := (code :: seq :: n :: payload ++ [check]).sum
      (sum ≠ 0 → exec (.frame (code :: seq :: n :: payload ++ check :: beyond)) s =
        .next { s with link := { s.link with outcome := .rejectedCheck } }) ∧
      (sum = 0 → s.link.process ≠ none → exec (.frame (code :: seq :: n :: payload ++ check :: beyond)) s =
        .next { s with link := { s.link with outcome := .rejectedBusy } }) ∧
      (sum = 0 → s.link.process = none → LengthWrong code payload →
        exec (.frame (code :: seq :: n :: payload ++ check :: beyond)) s =
          .next { s with link := { s.link with outcome := .rejectedLength } }) ∧
      (sum = 0 → s.link.process = none → ¬ LengthWrong code payload →
        ∃ t, exec (.frame (code :: seq :: n :: payload ++ check :: beyond)) s = .next t ∧ t.link.outcome = .accepted))

/-- A good frame of a command is that command. For every command the link can carry, with every value of its fields, the bytes
of its frame (code, sequence number, length, payload, check byte), taken as a FRAME, do what the command's own row does. Where
the link takes frames it is accepted, and a response in the slot carries its sequence number. That a row is
such a frame is the model's choice (log 15). -/
def Obligations.GoodFrameIsItsCommand : Prop :=
  ∀ (s : State) (cmd : Command) (seq : Byte), Command.sendable cmd = true →
    exec (.frame (frameBytes (Command.code cmd) seq (Command.payload cmd))) s = exec (Command.row seq cmd) s ∧
    (s.LinkTakes → ∃ t, exec (.frame (frameBytes (Command.code cmd) seq (Command.payload cmd))) s = .next t ∧ t.link.outcome = .accepted ∧
      ∀ r, t.link.slot = some r → r.seq = seq)

/-! ### Map commands -/

/-- A MAP-LOAD that fails a check is refused with the first failing reason and the record named, and installs nothing. A port
above 3 is FIELD and a count above 8 is COUNT, naming no record; else the reason and record are those of the list's first
failing check, which ReplacementListChecks spells. -/
def Obligations.MapLoadRefused : Prop :=
  ∀ (s : State) (seq port : Byte) (l : List Segment), s.LinkTakes → l.length ≤ 17 →
    let command := exec (.mapLoad seq port (BitVec.ofNat 8 l.length) (l.flatMap Segment.bytes)) s
    (4 ≤ port.toNat → ∃ t, command = .next t ∧ Answered s t seq (.refused .field) [0xFF] ∧ { t with link := s.link } = s) ∧
    (port.toNat < 4 → 8 < l.length →
      ∃ t, command = .next t ∧ Answered s t seq (.refused .count) [0xFF] ∧ { t with link := s.link } = s) ∧
    (∀ reason n, port.toNat < 4 → l.length ≤ 8 → listFault l = some (reason, n) →
      ∃ t, command = .next t ∧ Answered s t seq (.refused reason) [BitVec.ofNat 8 n] ∧ { t with link := s.link } = s)

/-- What the checks of a replacement list find, in their order. A list passes exactly when no check finds a fault. FIELD and RANGE
are looked for record by record, FIELD first, and name the first record at fault; then ORDER, NOTICE, GUARD and OVERLAP one after
another, each over the whole list, each naming the first record at which it finds a fault. The checks themselves are spelled by
the codes and ranges of a record (FieldSound, RangeSound and the faults beside them). -/
def Obligations.ReplacementListChecks : Prop :=
  ∀ l : List Segment,
    let record (n : Nat) : Prop := FieldFaultAt l n ∨ RangeFaultAt l n
    (listFault l = none ↔ ∀ n, ¬ record n ∧ ¬ OrderFaultAt l n ∧ ¬ NoticeFaultAt l n ∧ ¬ GuardFaultAt l n ∧
      ¬ OverlapFaultAt l n) ∧
    ∀ n,
      (listFault l = some (.field, n) ↔ FirstAt record n ∧ FieldFaultAt l n) ∧
      (listFault l = some (.range, n) ↔ FirstAt record n ∧ ¬ FieldFaultAt l n) ∧
      (listFault l = some (.order, n) ↔ (∀ k, ¬ record k) ∧ FirstAt (OrderFaultAt l) n) ∧
      (listFault l = some (.notice, n) ↔ (∀ k, ¬ record k ∧ ¬ OrderFaultAt l k) ∧ FirstAt (NoticeFaultAt l) n) ∧
      (listFault l = some (.guard, n) ↔ (∀ k, ¬ record k ∧ ¬ OrderFaultAt l k ∧ ¬ NoticeFaultAt l k) ∧
        FirstAt (GuardFaultAt l) n) ∧
      (listFault l = some (.overlap, n) ↔ (∀ k, ¬ record k ∧ ¬ OrderFaultAt l k ∧ ¬ NoticeFaultAt l k ∧ ¬ GuardFaultAt l k) ∧
        FirstAt (OverlapFaultAt l) n)

/-- MAP-LOAD installs a list that passes every check, MAP-OPEN opens the port, and MAP-READ returns what stands. In every state
MAP-READ gives an OPEN port mode OPEN and count 0, and a MAPPED one its count and its records as loaded; so a list read back gives
the same bytes. Each command answers DONE, and no other port's map and nothing else changes. -/
def Obligations.MapLoadAndMapOpenReplaceTheMap : Prop :=
  (∀ (s : State) (p : Port) (seq seq2 : Byte) (l : List Segment), s.LinkTakes → PortMap.sound (.mapped l) = true →
     let count := BitVec.ofNat 8 l.length
     let records := l.flatMap Segment.bytes
     ∃ t, exec (.mapLoad seq (BitVec.ofNat 8 p.val) count records) s = .next t ∧
       t.map p = .mapped l ∧ (∀ q, q ≠ p → t.map q = s.map q) ∧ Answered s t seq .done [] ∧
       { t with maps := s.maps, link := s.link } = s ∧
       ∃ u, exec (.mapRead seq2 (BitVec.ofNat 8 p.val)) t = .next u ∧
         Answered t u seq2 .done (1 :: count :: records) ∧ { u with link := t.link } = t) ∧
  (∀ (s : State) (p : Port) (seq seq2 : Byte), s.LinkTakes →
     ∃ t, exec (.mapOpen seq (BitVec.ofNat 8 p.val)) s = .next t ∧ t.map p = .openMode ∧
       (∀ q, q ≠ p → t.map q = s.map q) ∧ Answered s t seq .done [] ∧ { t with maps := s.maps, link := s.link } = s ∧
       ∃ u, exec (.mapRead seq2 (BitVec.ofNat 8 p.val)) t = .next u ∧ Answered t u seq2 .done [0, 0] ∧
         { u with link := t.link } = t) ∧
  (∀ (s : State) (p : Port) (seq : Byte), s.LinkTakes →
     ∃ t, exec (.mapRead seq (BitVec.ofNat 8 p.val)) s = .next t ∧ { t with link := s.link } = s ∧
       (s.map p = .openMode → Answered s t seq .done [0, 0]) ∧
       (∀ l, s.map p = .mapped l →
         Answered s t seq .done (1 :: BitVec.ofNat 8 l.length :: l.flatMap Segment.bytes)))

/-! ### Supervisor commands -/

/-- A command with a field out of its range is refused FIELD, and a code that names no command is refused COMMAND. The response has
an empty payload and nothing else of the part changes. The fields: ports above 3, a revoke flag above 1, slots above 63, counts
above 8 or 16, a claim-word address above 3FFFFFH, a divisor of 0. -/
def Obligations.RefusedCommandChangesNothing : Prop :=
  (∀ (s : State) (seq : Byte) (c : Instr), s.LinkTakes →
     ((∃ port : Byte, 3 < port.toNat ∧
         (c = .mapRead seq port ∨ c = .mapOpen seq port ∨ c = .unfence seq port ∨ ∃ flag, c = .fence seq port flag)) ∨
       (∃ port flag : Byte, 1 < flag.toNat ∧ c = .fence seq port flag) ∨
       (∃ slot maximum : Byte, (63 < slot.toNat ∨ 8 < maximum.toNat) ∧ c = .claimList seq slot maximum) ∨
       (∃ (slot : Byte) (addr : BitVec 24) (ticket : Byte), (63 < slot.toNat ∨ 0x3FFFFF < addr.toNat) ∧
         c = .claimRevoke seq slot addr ticket) ∨
       (∃ slot : Byte, 63 < slot.toNat ∧ c = .claimClear seq slot) ∨
       (∃ maximum : Byte, 16 < maximum.toNat ∧ c = .logRead seq maximum) ∨
       c = .timeSet seq 0) →
     ∃ t, exec c s = .next t ∧ Answered s t seq (.refused .field) [] ∧ { t with link := s.link } = s) ∧
  (∀ (s : State) (code seq : Byte) (payload : List Byte), s.LinkTakes → 13 < code.toNat →
     ∃ t, exec (.unknownCommand code seq payload) s = .next t ∧ Answered s t seq (.refused .command) [] ∧
       { t with link := s.link } = s)

/-- STATUS reports the part and changes nothing in it. Each port's byte gives condition, phase and fence flag; then the quiesce
state, the numbers of FETCHING, HELD, RETIRING and QUARANTINED entries, the length of the write-back queue, the number of
fault records, the dropped count and the divisor. All are read at one moment, which is the model's choice (log 21). -/
def Obligations.StatusReportsThePart : Prop :=
  ∀ (s : State) (seq : Byte), s.LinkTakes →
    ∃ t b0 b1 b2 b3, exec (.status seq) s = .next t ∧ { t with link := s.link } = s ∧
      Answered s t seq .done
        [b0, b1, b2, b3, match s.quiesce with
          | .running => 0
          | .draining => 1
          | .quiesced => 2,
          BitVec.ofNat 8 (slots.countP fun i => (s.entry i).stateCode = 1),
          BitVec.ofNat 8 (slots.countP fun i => (s.entry i).stateCode = 2),
          BitVec.ofNat 8 (slots.countP fun i => (s.entry i).stateCode = 3),
          BitVec.ofNat 8 (slots.countP fun i => (s.entry i).stateCode = 4),
          BitVec.ofNat 8 s.writeBackQueue.length, BitVec.ofNat 8 s.log.records.length, s.log.dropped,
          s.divisor.extractLsb' 8 8, s.divisor.extractLsb' 0 8] ∧
      ∀ p : Port, ∃ b, [b0, b1, b2, b3][p.val]? = some b ∧ b.getLsbD 4 = (s.port p).fence ∧ b.extractLsb' 5 3 = 0 ∧
        b.extractLsb' 0 2 = (if (s.port p).resetAsserted then 1 else if (s.port p).fence then 2 else 0) ∧
        b.extractLsb' 2 2 = (match (s.port p).phase with
          | .idle => 0
          | .queued _ => 1
          | .inMemory _ => 2
          | .stalled _ => 3)

/-- FENCE sets the flag, ends or marks the transaction by its phase, removes the port's waiter records and, with revoke, passes
its claims on. A QUEUED or STALLED transaction completes FAULT with a FENCED record; a QUEUED fetch frees its entry and an
IN-MEMORY one is marked FENCED; any other transaction runs on. The port's notices stand and the response is DONE. -/
def Obligations.FenceEndsTransactionAndWaits : Prop :=
  ∀ (s : State) (p : Port) (seq : Byte) (revoke : Bool), s.LinkTakes → s.AddressesDistinct →
    ∃ t : State, exec (.fence seq (BitVec.ofNat 8 p.val) (if revoke then 1 else 0)) s = .next (t.endEvent s) ∧
      Answered s t seq .done [] ∧ t.notice p = s.notice p ∧
      (∀ u, (s.port p).phase = .queued u ∨ (s.port p).phase = .stalled u →
        t.port p = { s.port p with fence := true, phase := .idle, replies := (s.port p).replies ++ [u.request.direction.fault] } ∧
        t.log = s.log.append { kind := .fenced, port := some p, access := u.request.direction.field
                               logical := some u.request.logical, physical := some u.physical, ticket := none }) ∧
      ((s.port p).phase = .idle ∨ (∃ u, (s.port p).phase = .inMemory u) →
        t.port p = { s.port p with fence := true } ∧ t.log = s.log) ∧
      (∀ i a q mark, s.entry i = .fetching a q mark →
        ((∀ u, (s.port p).phase = .queued u → u.purpose = .grantFetch → a = u.physical → t.entry i = .free) ∧
          (∀ u, (s.port p).phase = .inMemory u → u.purpose = .grantFetch → a = u.physical →
            t.entry i = .fetching a q (if mark = .none then .fenced else mark)) ∧
          ((∀ u, (s.port p).phase = .queued u ∨ (s.port p).phase = .inMemory u →
              u.purpose ≠ .grantFetch ∨ a ≠ u.physical) → t.entry i = s.entry i))) ∧
      (∀ i, (∀ a q mark, s.entry i ≠ .fetching a q mark) → t.entry i = (s.entry i).afterLeaving p revoke) ∧
      t.writeBackQueue = s.writeBackQueue ++ slots.filter (fun i => (s.entry i).queuesLeaving p revoke) ∧
      (revoke = false → PortsSameBut s t p ∧ t.notices = s.notices) ∧
      { t with ports := s.ports, table := s.table, writeBackQueue := s.writeBackQueue, notices := s.notices
               log := s.log, link := s.link } = s

/-- QUIESCE completes at once where the part is QUIESCED or every port is IDLE or STALLED, and else drains. Draining, the command is
in process and its slot EMPTY. At the end of the event that leaves every port IDLE or STALLED the state is QUIESCED, the command
state IDLE and the response DONE with its number READY, and nothing waiting is taken; no other event ends a drain. QUIESCE_DRAIN_END
does the same where it finds every port so, and else changes nothing, which is the model's choice (log 13). -/
def Obligations.QuiesceDrains : Prop :=
  (∀ (s : State) (seq : Byte), s.LinkTakes →
    ((s.quiesce = .quiesced ∨ ∀ p, (s.port p).phase = .idle ∨ ∃ u, (s.port p).phase = .stalled u) →
      ∃ t, exec (.quiesce seq) s = .next t ∧ Answered s t seq .done [] ∧ t.quiesce = .quiesced ∧
        { t with quiesce := s.quiesce, link := s.link } = s) ∧
    (s.quiesce ≠ .quiesced → (∃ p u, (s.port p).phase = .queued u ∨ (s.port p).phase = .inMemory u) →
      ∃ t, exec (.quiesce seq) s = .next t ∧ t.quiesce = .draining ∧
        t.link = { s.link with outcome := .accepted, slot := none, process := some seq } ∧
        { t with quiesce := s.quiesce, link := s.link } = s)) ∧
  (∀ (s before : State),
    let Drains : Prop := (∃ p u, (before.port p).phase = .queued u ∨ (before.port p).phase = .inMemory u) ∧
      s.quiesce = .draining ∧ ∀ p, (s.port p).phase = .idle ∨ ∃ u, (s.port p).phase = .stalled u
    (∀ seq, Drains → s.link.process = some seq →
      s.endEvent before = { s with
        quiesce := .quiesced
        link := { s.link with process := none, slot := some { status := .done, seq := seq, payload := [] } } }) ∧
    (¬ Drains ∨ s.link.process = none → s.endEvent before = s.takeReady before)) ∧
  (∀ (s : State) (seq : Byte), s.quiesce = .draining → s.link.process = some seq →
    ((∀ p, (s.port p).phase = .idle ∨ ∃ u, (s.port p).phase = .stalled u) →
      ∃ t, exec .quiesceDrainEnd s = .next t ∧ t.quiesce = .quiesced ∧
        t.link = { s.link with process := none, slot := some { status := .done, seq := seq, payload := [] } } ∧
        { t with quiesce := s.quiesce, link := s.link } = s) ∧
    ((∃ p u, (s.port p).phase = .queued u ∨ (s.port p).phase = .inMemory u) → exec .quiesceDrainEnd s = .next s))

/-- The bank changes only at the memory port, and the quiesce state only by its commands and at the end of a drain. Only a completion
or part reset changes the bank, and then no byte outside the word of the operation in flight. The quiesce state changes only by
QUIESCE, QUIESCE_DRAIN_END, RESUME, part reset, a frame or a selection whose first byte is the code of QUIESCE or RESUME, and from
DRAINING to QUIESCED by an event that leaves every port drained where some port was not. That a completion and not a grant changes
the bank is inferred (log 3). That a failed write reaches its own word alone is the model's choice (log 4), as is the
UNKNOWN_COMMAND row with the code of QUIESCE or RESUME (log 15). -/
def Obligations.BankAndQuiesceStateChangeOnlyByTheirCommands : Prop :=
  (∀ (s t : State) (c : Instr), exec c s = .next t →
     t.bank = s.bank ∨
       ((c = .partReset ∨ ∃ e, c = .plainAccessCompletion e ∨ c = .viewReadCompletion e ∨ c = .grantFetchCompletion e ∨
           c = .writeBackCompletion e) ∧
         ∃ op, s.memPort.operation = some op ∧ BankSameBut s.bank t.bank op.address)) ∧
  (∀ (s t : State) (c : Instr), exec c s = .next t → t.quiesce ≠ s.quiesce →
     let Code (bytes : List Byte) : Prop := bytes.head? = some 0x07 ∨ bytes.head? = some 0x08
     c = .quiesceDrainEnd ∨ c = .partReset ∨ (∃ seq, c = .quiesce seq ∨ c = .resume seq) ∨
       (∃ code seq payload, c = .unknownCommand code seq payload ∧ (code = 0x07 ∨ code = 0x08)) ∨
       (∃ bytes, (c = .frame bytes ∨ ∃ extra, c = .selection (.whole bytes extra)) ∧ Code bytes) ∨
       (c = .selection .release ∧ ∃ sel, s.link.selection = some sel ∧ Code (bytesOf sel.received)) ∨
       (s.quiesce = .draining ∧ t.quiesce = .quiesced ∧
         (∃ p u, (s.port p).phase = .queued u ∨ (s.port p).phase = .inMemory u) ∧
         ∀ p, (t.port p).phase = .idle ∨ ∃ u, (t.port p).phase = .stalled u))

/-- CLAIM-LIST returns the non-FREE entries from the first slot on in ascending order, up to the maximum count, and changes
nothing. No non-FREE entry is passed over before the last one returned, and a listing shorter than asked has passed over
none; each record has fifteen bytes, the slot and the state code first. -/
def Obligations.ClaimListReportsInOrder : Prop :=
  ∀ (s : State) (seq : Byte) (first : Slot) (maximum : Byte), s.LinkTakes → maximum.toNat ≤ 8 →
    ∃ (t : State) (l : List Slot), exec (.claimList seq (BitVec.ofNat 8 first.val) maximum) s = .next t ∧
      { t with link := s.link } = s ∧
      Answered s t seq .done (BitVec.ofNat 8 l.length :: l.flatMap fun j => claimRecord j (s.entry j)) ∧
      l.length ≤ maximum.toNat ∧ l.Pairwise (fun i j => i < j) ∧
      (∀ j ∈ l, first ≤ j ∧ s.entry j ≠ .free) ∧
      (∀ j, first ≤ j → s.entry j ≠ .free → j ∉ l → l.length = maximum.toNat ∧ ∀ k ∈ l, k < j) ∧
      ∀ j ∈ l, (claimRecord j (s.entry j)).length = 15 ∧
        (claimRecord j (s.entry j)).take 2 = [BitVec.ofNat 8 j.val, (s.entry j).stateCode]

/-- CLAIM-REVOKE is decided at the entry it names. An entry not HELD, or HELD at another word, is refused NOT-HELD; another
ticket is refused TICKET; else the claim passes on or the entry retires, the former holder is sent REVOKED with the ticket now
current, no record is written, and the response gives the state after the loss, the new holder and that ticket. -/
def Obligations.ClaimRevokeDecidedAtEntry : Prop :=
  ∀ (s : State) (seq : Byte) (i : Slot) (x : PhysAddr) (ticket : Byte), s.LinkTakes →
    let command := exec (.claimRevoke seq (BitVec.ofNat 8 i.val) (x.setWidth 24) ticket) s
    ((∀ h, s.entry i = .held h → h.address ≠ x) →
      ∃ t, command = .next t ∧ Answered s t seq (.refused .notHeld) [] ∧ { t with link := s.link } = s) ∧
    (∀ h, s.entry i = .held h → h.address = x → h.ticket ≠ ticket →
      ∃ t, command = .next t ∧ Answered s t seq (.refused .ticket) [] ∧ { t with link := s.link } = s) ∧
    (∀ h, s.ListsSound → s.entry i = .held h → h.address = x → h.ticket = ticket →
      ∃ t : State, command = .next (t.endEvent s) ∧ t.entry i = h.afterLoss ∧ EntriesSameBut s t i ∧
        t.writeBackQueue = (if h.queuesAtLoss then s.writeBackQueue ++ [i] else s.writeBackQueue) ∧
        Answered s t seq .done (if h.waiters = [] then [3, 0, h.ticket]
          else [2, BitVec.ofNat 8 h.nextHolder.val, h.nextTicket]) ∧
        t.notice h.holder = (if (s.port h.holder).resetAsserted then s.notice h.holder
          else (s.notice h.holder).arrive { kind := .revoked, other := h.nextHolder
                                            ticketBits := h.nextTicket.extractLsb' 0 4, address := h.address }) ∧
        (h.waiters = [] → t.ports = s.ports ∧ ∀ q, q ≠ h.holder → t.notice q = s.notice q) ∧
        (∀ w rest, h.waiters = w :: rest → NewHolderTold s t h w rest ∧
          (∀ q, q ≠ w.port → t.port q = s.port q) ∧ ∀ q, q ≠ w.port → q ≠ h.holder → t.notice q = s.notice q) ∧
        { t with ports := s.ports, table := s.table, writeBackQueue := s.writeBackQueue, notices := s.notices
                 link := s.link } = s)

/-- CLAIM-CLEAR frees a QUARANTINED entry and refuses any other. The first answers DONE with an empty payload and leaves memory
as it was, the second NOT-QUARANTINED with the entry unchanged. A QUARANTINED entry stays as it is until a part reset or a
CLAIM-CLEAR, whose response DONE is then in the slot; that the UNKNOWN_COMMAND row with its code is one too is the model's
choice (log 15). -/
def Obligations.ClaimClearFreesQuarantine : Prop :=
  (∀ (s : State) (seq : Byte) (i : Slot), s.LinkTakes →
    ((∃ a k w, s.entry i = .quarantined a k w) →
      ∃ t, exec (.claimClear seq (BitVec.ofNat 8 i.val)) s = .next t ∧ t.entry i = .free ∧ EntriesSameBut s t i ∧
        Answered s t seq .done [] ∧ { t with table := s.table, link := s.link } = s) ∧
    ((∀ a k w, s.entry i ≠ .quarantined a k w) →
      ∃ t, exec (.claimClear seq (BitVec.ofNat 8 i.val)) s = .next t ∧
        Answered s t seq (.refused .notQuarantined) [] ∧ { t with link := s.link } = s)) ∧
  (∀ (s t : State) (c : Instr) (i : Slot) (a : PhysAddr) (k : Ticket) (w : Payload), s.entry i = .quarantined a k w →
    exec c s = .next t → c ≠ .partReset →
    t.entry i = s.entry i ∨
      (((∃ seq, c = .claimClear seq (BitVec.ofNat 8 i.val)) ∨
          (∃ seq, c = .unknownCommand 0x0B seq [BitVec.ofNat 8 i.val]) ∨ (∃ bytes, c = .frame bytes) ∨
          ∃ e, c = .selection e) ∧
        t.entry i = .free ∧ ∃ seq, t.link.slot = some { status := .done, seq := seq, payload := [] }))

/-- LOG-READ takes the oldest records, as many as asked or as the list holds, and zeroes the dropped count. The response carries
the number taken, the dropped count as it stood and the records oldest first; the records not taken stay in their order. A maximum
count above 16 is refused FIELD and changes nothing else. -/
def Obligations.LogReadTakesOldest : Prop :=
  (∀ (s : State) (seq maximum : Byte) (taken rest : List FaultRecord), s.LinkTakes → maximum.toNat ≤ 16 →
    s.log.records = taken ++ rest → (taken.length = maximum.toNat ∨ (taken.length < maximum.toNat ∧ rest = [])) →
    ∃ t, exec (.logRead seq maximum) s = .next t ∧ t.log = { records := rest, dropped := 0 } ∧
      Answered s t seq .done
        (BitVec.ofNat 8 taken.length :: s.log.dropped :: taken.flatMap FaultRecord.bytes) ∧
      { t with log := s.log, link := s.link } = s) ∧
  (∀ (s : State) (seq maximum : Byte), s.LinkTakes → 16 < maximum.toNat →
    ∃ t, exec (.logRead seq maximum) s = .next t ∧ Answered s t seq (.refused .field) [] ∧ { t with link := s.link } = s)

/-- UNFENCE, RESUME and TIME-SET act on their own block alone and answer DONE. UNFENCE clears the named port's fence flag, RESUME
sets the quiesce state to RUNNING, after which waiting requests are taken, and TIME-SET with a divisor other than 0 replaces the
divisor and reloads the divider count with it; every running count of the table stands. -/
def Obligations.UnfenceResumeAndTimeSetActAlone : Prop :=
  ((∀ (s : State) (p : Port) (seq : Byte), s.LinkTakes →
     ∃ t, exec (.unfence seq (BitVec.ofNat 8 p.val)) s = .next t ∧ Answered s t seq .done [] ∧
       t.port p = { s.port p with fence := false } ∧ PortsSameBut s t p ∧
       { t with ports := s.ports, link := s.link } = s) ∧
   (∀ (s : State) (seq : Byte), s.LinkTakes →
     ∃ t : State, exec (.resume seq) s = .next (t.endEvent s) ∧ Answered s t seq .done [] ∧ t.quiesce = .running ∧
       { t with quiesce := s.quiesce, link := s.link } = s)) ∧
  (∀ (s : State) (seq : Byte) (divisor : Ticks), s.LinkTakes → divisor ≠ 0 →
     ∃ t, exec (.timeSet seq divisor) s = .next t ∧ t.divisor = divisor ∧ t.divider = divisor ∧
       Answered s t seq .done [] ∧ { t with divisor := s.divisor, divider := s.divider, link := s.link } = s)

/-! ### Words, queues and the log -/

/-- The fields of the words that a master reads. A claim or view reply word carries outcome, port, count, ticket and payload
from bit 31 down; the count is the number itself up to 3. A notice word carries kind, other port, ticket bits and address. A read
that completes FAULT drives its read data as zero; a write that does returns none. -/
def Obligations.WordFieldsAtMasterPorts : Prop :=
  (∀ (o : ClaimOutcome) (p : Port) (n : Nat) (ticket : Ticket) (payload : Payload), n ≤ 3 →
     let w := replyWord o p n ticket payload
     w.extractLsb' 28 4 = o.code ∧ (w.extractLsb' 26 2).toNat = p.val ∧ (w.extractLsb' 24 2).toNat = n ∧
       w.extractLsb' 16 8 = ticket ∧ w.extractLsb' 0 16 = payload ∧
       [ClaimOutcome.granted, .held, .busy, .queued, .full, .broken, .deadlock, .timeout, .free, .taken].map
         ClaimOutcome.code = [1, 2, 3, 4, 5, 6, 7, 8, 9, 10]) ∧
  ((∀ n : Notice,
      n.word.extractLsb' 28 4 = n.kind.code ∧ (n.word.extractLsb' 26 2).toNat = n.other.val ∧
        n.word.extractLsb' 22 4 = n.ticketBits ∧ n.word.extractLsb' 0 22 = n.address ∧
        [NoticeKind.handoff, .expired, .revoked, .contended].map NoticeKind.code = [1, 2, 3, 4] ∧
        emptyCode = 0 ∧ overflowCode = 5) ∧
   Direction.fault .read = .readFault 0 ∧ ∀ d, Direction.fault (.write d) = .writeFault)

/-- The bytes of the records, responses and command frames of the link, as numbers. A CLAIM-LIST record has slot, state, address,
port and orphan mark, ticket, payload, lease remaining, lease and write-back state with the number of waiters, and three waiter
bytes; a fault record has kind, presence bits with access and port, logical and physical address, and ticket; a field that is
absent, and its presence bit, is 0. A response has its status or reason code, a command frame its code, and each the sequence
number, the payload length, the payload and the byte that makes the sum 0. A segment record has its six fields, most significant
byte first. -/
def Obligations.LinkFormats : Prop :=
  ((∀ (i : Slot) (e : Entry) (x : PhysAddr), e.address = some x → (∀ h, e = .held h → h.waiters.length ≤ 3) →
     let address : List Nat := [x.toNat / 65536, x.toNat / 256 % 256, x.toNat % 256]
     (claimRecord i e).map BitVec.toNat = [i.val] ++
       match e with
       | .free => []
       | .fetching _ p mark =>
         [1] ++ address ++ [128 + 16 * (match mark with
           | .none => 0
           | .fenced => 1
           | .offline => 2) + p.val, 0, 0, 0, 0, 0, 0, 0, 0, 0]
       | .held h =>
         let left := (h.lease.elim 0 Lease.remaining).toNat
         [2] ++ address ++
           [128 + h.holder.val, h.ticket.toNat, h.payload.toNat / 256, h.payload.toNat % 256, left / 256, left % 256,
            (if h.lease = none then 0 else 128) + (if h.writeBack = none then 0 else 32) + h.waiters.length] ++
           (h.waiters.map fun w => 128 + (if w.waits then 4 else 0) + w.port.val) ++
           List.replicate (3 - h.waiters.length) 0
       | .retiring r =>
         [3] ++ address ++ [0, r.ticket.toNat, r.payload.toNat / 256, r.payload.toNat % 256, 0, 0,
           if r.writeBack = none then 16 else 32, 0, 0, 0]
       | .quarantined _ k w =>
         [4] ++ address ++ [0, k.toNat, w.toNat / 256, w.toNat % 256, 0, 0, 0, 0, 0, 0]) ∧
  (∀ r : FaultRecord,
     let logical := (r.logical.getD 0).toNat
     let physical := (r.physical.getD 0).toNat
     r.bytes.map BitVec.toNat =
       [match r.kind with
        | .unmapped => 1
        | .denied => 2
        | .guard => 3
        | .claimword => 4
        | .stale => 5
        | .fenced => 6
        | .memory => 7
        | .writeback => 8
        | .expired => 9,
        (if r.ticket = none then 0 else 128) + (if r.physical = none then 0 else 64) +
          (if r.logical = none then 0 else 32) +
          8 * (match r.access with
            | .none => 0
            | .read => 1
            | .write => 2) +
          r.port.elim 0 (fun p => 4 + p.val),
        logical / 65536, logical / 256 % 256, logical % 256, physical / 65536, physical / 256 % 256, physical % 256,
        (r.ticket.getD 0).toNat])) ∧
  ((∀ r : Response, r.payload.length ≤ 250 →
     ∃ check : Nat, r.bytes.map BitVec.toNat =
       [match r.status with
        | .done => 0
        | .refused reason => match reason with
          | .field => 1
          | .count => 2
          | .range => 3
          | .order => 4
          | .notice => 5
          | .guard => 6
          | .overlap => 7
          | .notHeld => 8
          | .ticket => 9
          | .notQuarantined => 10
          | .command => 11, r.seq.toNat, r.payload.length] ++ r.payload.map BitVec.toNat ++ [check] ∧
       check < 256 ∧ (r.bytes.map BitVec.toNat).sum % 256 = 0) ∧
   (∀ (cmd : Command) (seq : Byte), Command.sendable cmd = true →
     let frame := (frameBytes (Command.code cmd) seq (Command.payload cmd)).map BitVec.toNat
     let spelled : Nat × List Nat := match cmd with
       | .status => (1, [])
       | .mapLoad port count records => (2, port.toNat :: count.toNat :: records.map BitVec.toNat)
       | .mapRead port => (3, [port.toNat])
       | .mapOpen port => (4, [port.toNat])
       | .fence port revoke => (5, [port.toNat, revoke.toNat])
       | .unfence port => (6, [port.toNat])
       | .quiesce => (7, [])
       | .resume => (8, [])
       | .claimList first maximum => (9, [first.toNat, maximum.toNat])
       | .claimRevoke slot addr ticket =>
         (10, [slot.toNat, addr.toNat / 65536, addr.toNat / 256 % 256, addr.toNat % 256, ticket.toNat])
       | .claimClear slot => (11, [slot.toNat])
       | .logRead maximum => (12, [maximum.toNat])
       | .timeSet divisor => (13, [divisor.toNat / 256, divisor.toNat % 256])
       | .unknown code => (code.toNat, [])
     ∃ check : Nat, frame = [spelled.1, seq.toNat, spelled.2.length] ++ spelled.2 ++ [check] ∧ check < 256 ∧
       frame.sum % 256 = 0) ∧
   (∀ g : Segment, g.bytes.map BitVec.toNat =
     [g.basePage.toNat / 256, g.basePage.toNat % 256, g.pageCount.toNat / 256, g.pageCount.toNat % 256,
      g.baseFrame.toNat / 256, g.baseFrame.toNat % 256, g.descriptor.toNat / 16777216, g.descriptor.toNat / 65536 % 256,
      g.descriptor.toNat / 256 % 256, g.descriptor.toNat % 256, g.lease.toNat / 256, g.lease.toNat % 256,
      g.limit.toNat / 256, g.limit.toNat % 256]) ∧
   [FrameOutcome.none, .accepted, .rejectedBusy, .rejectedCheck, .rejectedLength].map FrameOutcome.code = [0, 1, 2, 3, 4])

/-- A record or a notice that arrives is appended while there is room and dropped where there is none. The log keeps its first
sixteen records and counts the others up to 255; a notice queue keeps its eight and sets the marker. The attention output is
asserted exactly while the flag is set and the queue is not empty or the marker is set. -/
def Obligations.ArrivalAtFullLogOrQueueDrops : Prop :=
  (∀ (l : FaultLog) (r : FaultRecord),
     (l.records.length < 16 → (l.append r).records = l.records ++ [r] ∧ (l.append r).dropped = l.dropped) ∧
     (16 ≤ l.records.length → (l.append r).records = l.records ∧
       (l.append r).dropped.toNat = min 255 (l.dropped.toNat + 1))) ∧
  ((∀ (u : NoticeUnit) (n : Notice),
     (u.queue.length < 8 → u.arrive n = { u with queue := u.queue ++ [n] }) ∧
     (8 ≤ u.queue.length → u.arrive n = { u with overflow := true })) ∧
   (∀ (s : State) (p : Port), s.attention p = true ↔
     (s.notice p).enable = true ∧ ((s.notice p).queue ≠ [] ∨ (s.notice p).overflow = true)))

/-! ### What every step keeps -/

/-- Every step keeps the claim table and the write-back queue sound. No two non-FREE entries name one word; no list has two
records of one port or one of the holder, and so at most three records; each slot in the queue appears once and belongs to a
RETIRING entry with no write-back in flight, and every such entry's slot is in it. An entry is IN-FLIGHT exactly while the
operation is its slot's write-back, of its word with its written ticket; not regranted, it is RETIRING as written. -/
def Obligations.EveryStepKeepsTableAndQueueSound : Prop :=
  (KeptByStep (fun s => s.AddressesDistinct) ∧ KeptByStep (fun s => s.ListsSound) ∧
     ∀ s : State, s.ListsSound → ∀ i, (s.entry i).waiters.length ≤ 3) ∧
  (KeptByStep fun s => s.QueueSound) ∧ (KeptByStep fun s => s.WriteBackSound)

/-- Every step keeps running counts and stalls sound. No running count stands at 0 or exceeds the length it was set to; a port
has a WAIT record exactly when it is STALLED, and then exactly one. -/
def Obligations.EveryStepKeepsCountsAndStallsSound : Prop :=
  (KeptByStep fun s => s.CountsSound) ∧
  (KeptByStep fun s => s.ListsSound ∧ s.StallsSound)

/-- Every step keeps OFFLINE ports empty, FENCED ports off every list, and no request waiting where it would be taken. An OFFLINE
port has no claim, waiter record, transaction or notice; a port whose fence flag is set has no waiter record; a port that takes
requests has none presented. -/
def Obligations.EveryStepKeepsClosedPortsEmpty : Prop :=
  KeptByStep (fun s => s.OfflineEmpty) ∧ KeptByStep (fun s => s.FencedUnlisted) ∧ KeptByStep (fun s => s.NothingWaits)

/-- Every step keeps the bounds and forms of the other blocks. Notice queues hold at most eight, the log at most sixteen records;
every installed map passes its checks; the divider stands between 1 and the divisor; DRAINING holds exactly while a QUIESCE is in
process, and only while some port is not drained; the bank keeps its canonical form, which is the model's (log 2). -/
def Obligations.EveryStepKeepsBlockBounds : Prop :=
  KeptByStep (fun s => s.BuffersBounded) ∧ KeptByStep (fun s => s.MapsSound) ∧ KeptByStep (fun s => s.DividerSound) ∧
    KeptByStep (fun s => s.DrainSound) ∧ KeptByStep (fun s => s.BankSound)

/-- Every step keeps transactions, the operation in flight and FETCHING entries in agreement. An IN-MEMORY port's operation is
the one in flight, a fetch under way has its FETCHING entry, and a FETCHING entry has its fetch QUEUED or in flight; stated where
no two entries name one word and waiter lists and stalls are sound, which the steps keep too. -/
def Obligations.EveryStepKeepsFetchesSound : Prop :=
  KeptByStep fun s => s.AddressesDistinct ∧ s.ListsSound ∧ s.StallsSound ∧ s.FetchesSound

/-- The state after reset satisfies every invariant that the steps keep. Of its fields, the input pins at rest and the empty bank are
the model's choices (log 1, log 2). -/
def Obligations.ResetSatisfiesInvariants : Prop :=
  State.reset.AddressesDistinct ∧ State.reset.ListsSound ∧ State.reset.QueueSound ∧ State.reset.CountsSound ∧
    State.reset.StallsSound ∧ State.reset.OfflineEmpty ∧ State.reset.FencedUnlisted ∧ State.reset.BuffersBounded ∧
    State.reset.MapsSound ∧ State.reset.DividerSound ∧ State.reset.DrainSound ∧ State.reset.BankSound ∧
    State.reset.FetchesSound ∧ State.reset.NothingWaits ∧ State.reset.WriteBackSound
end

