-- ==== Sys2Proof/Laws/State.lean ====
section
/-! SUPPORT. One lemma per field per update of State, so that no proof unfolds a record update, and what reading an indexed
piece gives after it was written. -/

namespace Sys2Proof.Machine

/-! ### setPort -/

@[simp] theorem setPort_maps (s : State) (p : Port) (u : PortUnit) : (s.setPort p u).maps = s.maps := rfl
@[simp] theorem setPort_table (s : State) (p : Port) (u : PortUnit) : (s.setPort p u).table = s.table := rfl
@[simp] theorem setPort_writeBackQueue (s : State) (p : Port) (u : PortUnit) : (s.setPort p u).writeBackQueue = s.writeBackQueue := rfl
@[simp] theorem setPort_notices (s : State) (p : Port) (u : PortUnit) : (s.setPort p u).notices = s.notices := rfl
@[simp] theorem setPort_divisor (s : State) (p : Port) (u : PortUnit) : (s.setPort p u).divisor = s.divisor := rfl
@[simp] theorem setPort_divider (s : State) (p : Port) (u : PortUnit) : (s.setPort p u).divider = s.divider := rfl
@[simp] theorem setPort_memPort (s : State) (p : Port) (u : PortUnit) : (s.setPort p u).memPort = s.memPort := rfl
@[simp] theorem setPort_log (s : State) (p : Port) (u : PortUnit) : (s.setPort p u).log = s.log := rfl
@[simp] theorem setPort_link (s : State) (p : Port) (u : PortUnit) : (s.setPort p u).link = s.link := rfl
@[simp] theorem setPort_quiesce (s : State) (p : Port) (u : PortUnit) : (s.setPort p u).quiesce = s.quiesce := rfl
@[simp] theorem setPort_partReset (s : State) (p : Port) (u : PortUnit) : (s.setPort p u).partReset = s.partReset := rfl
@[simp] theorem setPort_bank (s : State) (p : Port) (u : PortUnit) : (s.setPort p u).bank = s.bank := rfl
@[simp] theorem setPort_freeIndex (s : State) (p : Port) (u : PortUnit) : (s.setPort p u).freeIndex = s.freeIndex := rfl
@[simp] theorem setPort_pending (s : State) (p : Port) (u : PortUnit) : (s.setPort p u).pending = s.pending := rfl
@[simp] theorem setPort_map (s : State) (p : Port) (u : PortUnit) (q : Port) : (s.setPort p u).map q = s.map q := rfl
@[simp] theorem setPort_entry (s : State) (p : Port) (u : PortUnit) (j : Slot) : (s.setPort p u).entry j = s.entry j := rfl
@[simp] theorem setPort_notice (s : State) (p : Port) (u : PortUnit) (q : Port) : (s.setPort p u).notice q = s.notice q := rfl

/-! ### setMap -/

@[simp] theorem setMap_ports (s : State) (p : Port) (m : PortMap) : (s.setMap p m).ports = s.ports := rfl
@[simp] theorem setMap_table (s : State) (p : Port) (m : PortMap) : (s.setMap p m).table = s.table := rfl
@[simp] theorem setMap_writeBackQueue (s : State) (p : Port) (m : PortMap) : (s.setMap p m).writeBackQueue = s.writeBackQueue := rfl
@[simp] theorem setMap_notices (s : State) (p : Port) (m : PortMap) : (s.setMap p m).notices = s.notices := rfl
@[simp] theorem setMap_divisor (s : State) (p : Port) (m : PortMap) : (s.setMap p m).divisor = s.divisor := rfl
@[simp] theorem setMap_divider (s : State) (p : Port) (m : PortMap) : (s.setMap p m).divider = s.divider := rfl
@[simp] theorem setMap_memPort (s : State) (p : Port) (m : PortMap) : (s.setMap p m).memPort = s.memPort := rfl
@[simp] theorem setMap_log (s : State) (p : Port) (m : PortMap) : (s.setMap p m).log = s.log := rfl
@[simp] theorem setMap_link (s : State) (p : Port) (m : PortMap) : (s.setMap p m).link = s.link := rfl
@[simp] theorem setMap_quiesce (s : State) (p : Port) (m : PortMap) : (s.setMap p m).quiesce = s.quiesce := rfl
@[simp] theorem setMap_partReset (s : State) (p : Port) (m : PortMap) : (s.setMap p m).partReset = s.partReset := rfl
@[simp] theorem setMap_bank (s : State) (p : Port) (m : PortMap) : (s.setMap p m).bank = s.bank := rfl
@[simp] theorem setMap_freeIndex (s : State) (p : Port) (m : PortMap) : (s.setMap p m).freeIndex = s.freeIndex := rfl
@[simp] theorem setMap_pending (s : State) (p : Port) (m : PortMap) : (s.setMap p m).pending = s.pending := rfl
@[simp] theorem setMap_port (s : State) (p : Port) (m : PortMap) (q : Port) : (s.setMap p m).port q = s.port q := rfl
@[simp] theorem setMap_entry (s : State) (p : Port) (m : PortMap) (j : Slot) : (s.setMap p m).entry j = s.entry j := rfl
@[simp] theorem setMap_notice (s : State) (p : Port) (m : PortMap) (q : Port) : (s.setMap p m).notice q = s.notice q := rfl

/-! ### setEntry -/

@[simp] theorem setEntry_ports (s : State) (i : Slot) (e : Entry) : (s.setEntry i e).ports = s.ports := rfl
@[simp] theorem setEntry_maps (s : State) (i : Slot) (e : Entry) : (s.setEntry i e).maps = s.maps := rfl
@[simp] theorem setEntry_writeBackQueue (s : State) (i : Slot) (e : Entry) : (s.setEntry i e).writeBackQueue = s.writeBackQueue := rfl
@[simp] theorem setEntry_notices (s : State) (i : Slot) (e : Entry) : (s.setEntry i e).notices = s.notices := rfl
@[simp] theorem setEntry_divisor (s : State) (i : Slot) (e : Entry) : (s.setEntry i e).divisor = s.divisor := rfl
@[simp] theorem setEntry_divider (s : State) (i : Slot) (e : Entry) : (s.setEntry i e).divider = s.divider := rfl
@[simp] theorem setEntry_memPort (s : State) (i : Slot) (e : Entry) : (s.setEntry i e).memPort = s.memPort := rfl
@[simp] theorem setEntry_log (s : State) (i : Slot) (e : Entry) : (s.setEntry i e).log = s.log := rfl
@[simp] theorem setEntry_link (s : State) (i : Slot) (e : Entry) : (s.setEntry i e).link = s.link := rfl
@[simp] theorem setEntry_quiesce (s : State) (i : Slot) (e : Entry) : (s.setEntry i e).quiesce = s.quiesce := rfl
@[simp] theorem setEntry_partReset (s : State) (i : Slot) (e : Entry) : (s.setEntry i e).partReset = s.partReset := rfl
@[simp] theorem setEntry_bank (s : State) (i : Slot) (e : Entry) : (s.setEntry i e).bank = s.bank := rfl
@[simp] theorem setEntry_freeIndex (s : State) (i : Slot) (e : Entry) : (s.setEntry i e).freeIndex = s.freeIndex := rfl
@[simp] theorem setEntry_pending (s : State) (i : Slot) (e : Entry) : (s.setEntry i e).pending = s.pending := rfl
@[simp] theorem setEntry_port (s : State) (i : Slot) (e : Entry) (q : Port) : (s.setEntry i e).port q = s.port q := rfl
@[simp] theorem setEntry_map (s : State) (i : Slot) (e : Entry) (q : Port) : (s.setEntry i e).map q = s.map q := rfl
@[simp] theorem setEntry_notice (s : State) (i : Slot) (e : Entry) (q : Port) : (s.setEntry i e).notice q = s.notice q := rfl

/-! ### setNotice -/

@[simp] theorem setNotice_ports (s : State) (p : Port) (n : NoticeUnit) : (s.setNotice p n).ports = s.ports := rfl
@[simp] theorem setNotice_maps (s : State) (p : Port) (n : NoticeUnit) : (s.setNotice p n).maps = s.maps := rfl
@[simp] theorem setNotice_table (s : State) (p : Port) (n : NoticeUnit) : (s.setNotice p n).table = s.table := rfl
@[simp] theorem setNotice_writeBackQueue (s : State) (p : Port) (n : NoticeUnit) : (s.setNotice p n).writeBackQueue = s.writeBackQueue := rfl
@[simp] theorem setNotice_divisor (s : State) (p : Port) (n : NoticeUnit) : (s.setNotice p n).divisor = s.divisor := rfl
@[simp] theorem setNotice_divider (s : State) (p : Port) (n : NoticeUnit) : (s.setNotice p n).divider = s.divider := rfl
@[simp] theorem setNotice_memPort (s : State) (p : Port) (n : NoticeUnit) : (s.setNotice p n).memPort = s.memPort := rfl
@[simp] theorem setNotice_log (s : State) (p : Port) (n : NoticeUnit) : (s.setNotice p n).log = s.log := rfl
@[simp] theorem setNotice_link (s : State) (p : Port) (n : NoticeUnit) : (s.setNotice p n).link = s.link := rfl
@[simp] theorem setNotice_quiesce (s : State) (p : Port) (n : NoticeUnit) : (s.setNotice p n).quiesce = s.quiesce := rfl
@[simp] theorem setNotice_partReset (s : State) (p : Port) (n : NoticeUnit) : (s.setNotice p n).partReset = s.partReset := rfl
@[simp] theorem setNotice_bank (s : State) (p : Port) (n : NoticeUnit) : (s.setNotice p n).bank = s.bank := rfl
@[simp] theorem setNotice_freeIndex (s : State) (p : Port) (n : NoticeUnit) : (s.setNotice p n).freeIndex = s.freeIndex := rfl
@[simp] theorem setNotice_pending (s : State) (p : Port) (n : NoticeUnit) : (s.setNotice p n).pending = s.pending := rfl
@[simp] theorem setNotice_port (s : State) (p : Port) (n : NoticeUnit) (q : Port) : (s.setNotice p n).port q = s.port q := rfl
@[simp] theorem setNotice_map (s : State) (p : Port) (n : NoticeUnit) (q : Port) : (s.setNotice p n).map q = s.map q := rfl
@[simp] theorem setNotice_entry (s : State) (p : Port) (n : NoticeUnit) (j : Slot) : (s.setNotice p n).entry j = s.entry j := rfl

/-! ### setPhase -/

@[simp] theorem setPhase_maps (s : State) (p : Port) (ph : Phase) : (s.setPhase p ph).maps = s.maps := rfl
@[simp] theorem setPhase_table (s : State) (p : Port) (ph : Phase) : (s.setPhase p ph).table = s.table := rfl
@[simp] theorem setPhase_writeBackQueue (s : State) (p : Port) (ph : Phase) : (s.setPhase p ph).writeBackQueue = s.writeBackQueue := rfl
@[simp] theorem setPhase_notices (s : State) (p : Port) (ph : Phase) : (s.setPhase p ph).notices = s.notices := rfl
@[simp] theorem setPhase_divisor (s : State) (p : Port) (ph : Phase) : (s.setPhase p ph).divisor = s.divisor := rfl
@[simp] theorem setPhase_divider (s : State) (p : Port) (ph : Phase) : (s.setPhase p ph).divider = s.divider := rfl
@[simp] theorem setPhase_memPort (s : State) (p : Port) (ph : Phase) : (s.setPhase p ph).memPort = s.memPort := rfl
@[simp] theorem setPhase_log (s : State) (p : Port) (ph : Phase) : (s.setPhase p ph).log = s.log := rfl
@[simp] theorem setPhase_link (s : State) (p : Port) (ph : Phase) : (s.setPhase p ph).link = s.link := rfl
@[simp] theorem setPhase_quiesce (s : State) (p : Port) (ph : Phase) : (s.setPhase p ph).quiesce = s.quiesce := rfl
@[simp] theorem setPhase_partReset (s : State) (p : Port) (ph : Phase) : (s.setPhase p ph).partReset = s.partReset := rfl
@[simp] theorem setPhase_bank (s : State) (p : Port) (ph : Phase) : (s.setPhase p ph).bank = s.bank := rfl
@[simp] theorem setPhase_freeIndex (s : State) (p : Port) (ph : Phase) : (s.setPhase p ph).freeIndex = s.freeIndex := rfl
@[simp] theorem setPhase_pending (s : State) (p : Port) (ph : Phase) : (s.setPhase p ph).pending = s.pending := rfl
@[simp] theorem setPhase_map (s : State) (p : Port) (ph : Phase) (q : Port) : (s.setPhase p ph).map q = s.map q := rfl
@[simp] theorem setPhase_entry (s : State) (p : Port) (ph : Phase) (j : Slot) : (s.setPhase p ph).entry j = s.entry j := rfl
@[simp] theorem setPhase_notice (s : State) (p : Port) (ph : Phase) (q : Port) : (s.setPhase p ph).notice q = s.notice q := rfl

/-! ### reply -/

@[simp] theorem reply_maps (s : State) (p : Port) (r : Reply) : (s.reply p r).maps = s.maps := rfl
@[simp] theorem reply_table (s : State) (p : Port) (r : Reply) : (s.reply p r).table = s.table := rfl
@[simp] theorem reply_writeBackQueue (s : State) (p : Port) (r : Reply) : (s.reply p r).writeBackQueue = s.writeBackQueue := rfl
@[simp] theorem reply_notices (s : State) (p : Port) (r : Reply) : (s.reply p r).notices = s.notices := rfl
@[simp] theorem reply_divisor (s : State) (p : Port) (r : Reply) : (s.reply p r).divisor = s.divisor := rfl
@[simp] theorem reply_divider (s : State) (p : Port) (r : Reply) : (s.reply p r).divider = s.divider := rfl
@[simp] theorem reply_memPort (s : State) (p : Port) (r : Reply) : (s.reply p r).memPort = s.memPort := rfl
@[simp] theorem reply_log (s : State) (p : Port) (r : Reply) : (s.reply p r).log = s.log := rfl
@[simp] theorem reply_link (s : State) (p : Port) (r : Reply) : (s.reply p r).link = s.link := rfl
@[simp] theorem reply_quiesce (s : State) (p : Port) (r : Reply) : (s.reply p r).quiesce = s.quiesce := rfl
@[simp] theorem reply_partReset (s : State) (p : Port) (r : Reply) : (s.reply p r).partReset = s.partReset := rfl
@[simp] theorem reply_bank (s : State) (p : Port) (r : Reply) : (s.reply p r).bank = s.bank := rfl
@[simp] theorem reply_freeIndex (s : State) (p : Port) (r : Reply) : (s.reply p r).freeIndex = s.freeIndex := rfl
@[simp] theorem reply_pending (s : State) (p : Port) (r : Reply) : (s.reply p r).pending = s.pending := rfl
@[simp] theorem reply_map (s : State) (p : Port) (r : Reply) (q : Port) : (s.reply p r).map q = s.map q := rfl
@[simp] theorem reply_entry (s : State) (p : Port) (r : Reply) (j : Slot) : (s.reply p r).entry j = s.entry j := rfl
@[simp] theorem reply_notice (s : State) (p : Port) (r : Reply) (q : Port) : (s.reply p r).notice q = s.notice q := rfl

/-! ### finish -/

@[simp] theorem finish_maps (s : State) (p : Port) (r : Reply) : (s.finish p r).maps = s.maps := rfl
@[simp] theorem finish_table (s : State) (p : Port) (r : Reply) : (s.finish p r).table = s.table := rfl
@[simp] theorem finish_writeBackQueue (s : State) (p : Port) (r : Reply) : (s.finish p r).writeBackQueue = s.writeBackQueue := rfl
@[simp] theorem finish_notices (s : State) (p : Port) (r : Reply) : (s.finish p r).notices = s.notices := rfl
@[simp] theorem finish_divisor (s : State) (p : Port) (r : Reply) : (s.finish p r).divisor = s.divisor := rfl
@[simp] theorem finish_divider (s : State) (p : Port) (r : Reply) : (s.finish p r).divider = s.divider := rfl
@[simp] theorem finish_memPort (s : State) (p : Port) (r : Reply) : (s.finish p r).memPort = s.memPort := rfl
@[simp] theorem finish_log (s : State) (p : Port) (r : Reply) : (s.finish p r).log = s.log := rfl
@[simp] theorem finish_link (s : State) (p : Port) (r : Reply) : (s.finish p r).link = s.link := rfl
@[simp] theorem finish_quiesce (s : State) (p : Port) (r : Reply) : (s.finish p r).quiesce = s.quiesce := rfl
@[simp] theorem finish_partReset (s : State) (p : Port) (r : Reply) : (s.finish p r).partReset = s.partReset := rfl
@[simp] theorem finish_bank (s : State) (p : Port) (r : Reply) : (s.finish p r).bank = s.bank := rfl
@[simp] theorem finish_freeIndex (s : State) (p : Port) (r : Reply) : (s.finish p r).freeIndex = s.freeIndex := rfl
@[simp] theorem finish_pending (s : State) (p : Port) (r : Reply) : (s.finish p r).pending = s.pending := rfl
@[simp] theorem finish_map (s : State) (p : Port) (r : Reply) (q : Port) : (s.finish p r).map q = s.map q := rfl
@[simp] theorem finish_entry (s : State) (p : Port) (r : Reply) (j : Slot) : (s.finish p r).entry j = s.entry j := rfl
@[simp] theorem finish_notice (s : State) (p : Port) (r : Reply) (q : Port) : (s.finish p r).notice q = s.notice q := rfl

/-! ### setPresented -/

@[simp] theorem setPresented_maps (s : State) (p : Port) (r : Option Request) : (s.setPresented p r).maps = s.maps := rfl
@[simp] theorem setPresented_table (s : State) (p : Port) (r : Option Request) : (s.setPresented p r).table = s.table := rfl
@[simp] theorem setPresented_writeBackQueue (s : State) (p : Port) (r : Option Request) : (s.setPresented p r).writeBackQueue = s.writeBackQueue := rfl
@[simp] theorem setPresented_notices (s : State) (p : Port) (r : Option Request) : (s.setPresented p r).notices = s.notices := rfl
@[simp] theorem setPresented_divisor (s : State) (p : Port) (r : Option Request) : (s.setPresented p r).divisor = s.divisor := rfl
@[simp] theorem setPresented_divider (s : State) (p : Port) (r : Option Request) : (s.setPresented p r).divider = s.divider := rfl
@[simp] theorem setPresented_memPort (s : State) (p : Port) (r : Option Request) : (s.setPresented p r).memPort = s.memPort := rfl
@[simp] theorem setPresented_log (s : State) (p : Port) (r : Option Request) : (s.setPresented p r).log = s.log := rfl
@[simp] theorem setPresented_link (s : State) (p : Port) (r : Option Request) : (s.setPresented p r).link = s.link := rfl
@[simp] theorem setPresented_quiesce (s : State) (p : Port) (r : Option Request) : (s.setPresented p r).quiesce = s.quiesce := rfl
@[simp] theorem setPresented_partReset (s : State) (p : Port) (r : Option Request) : (s.setPresented p r).partReset = s.partReset := rfl
@[simp] theorem setPresented_bank (s : State) (p : Port) (r : Option Request) : (s.setPresented p r).bank = s.bank := rfl
@[simp] theorem setPresented_freeIndex (s : State) (p : Port) (r : Option Request) : (s.setPresented p r).freeIndex = s.freeIndex := rfl
@[simp] theorem setPresented_pending (s : State) (p : Port) (r : Option Request) : (s.setPresented p r).pending = s.pending := rfl
@[simp] theorem setPresented_map (s : State) (p : Port) (r : Option Request) (q : Port) : (s.setPresented p r).map q = s.map q := rfl
@[simp] theorem setPresented_entry (s : State) (p : Port) (r : Option Request) (j : Slot) : (s.setPresented p r).entry j = s.entry j := rfl
@[simp] theorem setPresented_notice (s : State) (p : Port) (r : Option Request) (q : Port) : (s.setPresented p r).notice q = s.notice q := rfl

/-! ### logFault -/

@[simp] theorem logFault_ports (s : State) (r : FaultRecord) : (s.logFault r).ports = s.ports := rfl
@[simp] theorem logFault_maps (s : State) (r : FaultRecord) : (s.logFault r).maps = s.maps := rfl
@[simp] theorem logFault_table (s : State) (r : FaultRecord) : (s.logFault r).table = s.table := rfl
@[simp] theorem logFault_writeBackQueue (s : State) (r : FaultRecord) : (s.logFault r).writeBackQueue = s.writeBackQueue := rfl
@[simp] theorem logFault_notices (s : State) (r : FaultRecord) : (s.logFault r).notices = s.notices := rfl
@[simp] theorem logFault_divisor (s : State) (r : FaultRecord) : (s.logFault r).divisor = s.divisor := rfl
@[simp] theorem logFault_divider (s : State) (r : FaultRecord) : (s.logFault r).divider = s.divider := rfl
@[simp] theorem logFault_memPort (s : State) (r : FaultRecord) : (s.logFault r).memPort = s.memPort := rfl
@[simp] theorem logFault_link (s : State) (r : FaultRecord) : (s.logFault r).link = s.link := rfl
@[simp] theorem logFault_quiesce (s : State) (r : FaultRecord) : (s.logFault r).quiesce = s.quiesce := rfl
@[simp] theorem logFault_partReset (s : State) (r : FaultRecord) : (s.logFault r).partReset = s.partReset := rfl
@[simp] theorem logFault_bank (s : State) (r : FaultRecord) : (s.logFault r).bank = s.bank := rfl
@[simp] theorem logFault_freeIndex (s : State) (r : FaultRecord) : (s.logFault r).freeIndex = s.freeIndex := rfl
@[simp] theorem logFault_pending (s : State) (r : FaultRecord) : (s.logFault r).pending = s.pending := rfl
@[simp] theorem logFault_port (s : State) (r : FaultRecord) (q : Port) : (s.logFault r).port q = s.port q := rfl
@[simp] theorem logFault_map (s : State) (r : FaultRecord) (q : Port) : (s.logFault r).map q = s.map q := rfl
@[simp] theorem logFault_entry (s : State) (r : FaultRecord) (j : Slot) : (s.logFault r).entry j = s.entry j := rfl
@[simp] theorem logFault_notice (s : State) (r : FaultRecord) (q : Port) : (s.logFault r).notice q = s.notice q := rfl

/-! ### respond -/

@[simp] theorem respond_ports (s : State) (q : Byte) (st : ResponseStatus) (l : List Byte) : (s.respond q st l).ports = s.ports := rfl
@[simp] theorem respond_maps (s : State) (q : Byte) (st : ResponseStatus) (l : List Byte) : (s.respond q st l).maps = s.maps := rfl
@[simp] theorem respond_table (s : State) (q : Byte) (st : ResponseStatus) (l : List Byte) : (s.respond q st l).table = s.table := rfl
@[simp] theorem respond_writeBackQueue (s : State) (q : Byte) (st : ResponseStatus) (l : List Byte) : (s.respond q st l).writeBackQueue = s.writeBackQueue := rfl
@[simp] theorem respond_notices (s : State) (q : Byte) (st : ResponseStatus) (l : List Byte) : (s.respond q st l).notices = s.notices := rfl
@[simp] theorem respond_divisor (s : State) (q : Byte) (st : ResponseStatus) (l : List Byte) : (s.respond q st l).divisor = s.divisor := rfl
@[simp] theorem respond_divider (s : State) (q : Byte) (st : ResponseStatus) (l : List Byte) : (s.respond q st l).divider = s.divider := rfl
@[simp] theorem respond_memPort (s : State) (q : Byte) (st : ResponseStatus) (l : List Byte) : (s.respond q st l).memPort = s.memPort := rfl
@[simp] theorem respond_log (s : State) (q : Byte) (st : ResponseStatus) (l : List Byte) : (s.respond q st l).log = s.log := rfl
@[simp] theorem respond_quiesce (s : State) (q : Byte) (st : ResponseStatus) (l : List Byte) : (s.respond q st l).quiesce = s.quiesce := rfl
@[simp] theorem respond_partReset (s : State) (q : Byte) (st : ResponseStatus) (l : List Byte) : (s.respond q st l).partReset = s.partReset := rfl
@[simp] theorem respond_bank (s : State) (q : Byte) (st : ResponseStatus) (l : List Byte) : (s.respond q st l).bank = s.bank := rfl
@[simp] theorem respond_freeIndex (s : State) (q : Byte) (st : ResponseStatus) (l : List Byte) : (s.respond q st l).freeIndex = s.freeIndex := rfl
@[simp] theorem respond_pending (s : State) (q : Byte) (st : ResponseStatus) (l : List Byte) : (s.respond q st l).pending = s.pending := rfl
@[simp] theorem respond_port (s : State) (q : Byte) (st : ResponseStatus) (l : List Byte) (k : Port) : (s.respond q st l).port k = s.port k := rfl
@[simp] theorem respond_map (s : State) (q : Byte) (st : ResponseStatus) (l : List Byte) (k : Port) : (s.respond q st l).map k = s.map k := rfl
@[simp] theorem respond_entry (s : State) (q : Byte) (st : ResponseStatus) (l : List Byte) (j : Slot) : (s.respond q st l).entry j = s.entry j := rfl
@[simp] theorem respond_notice (s : State) (q : Byte) (st : ResponseStatus) (l : List Byte) (k : Port) : (s.respond q st l).notice k = s.notice k := rfl

/-! ### setOutcome -/

@[simp] theorem setOutcome_ports (s : State) (o : FrameOutcome) : (s.setOutcome o).ports = s.ports := rfl
@[simp] theorem setOutcome_maps (s : State) (o : FrameOutcome) : (s.setOutcome o).maps = s.maps := rfl
@[simp] theorem setOutcome_table (s : State) (o : FrameOutcome) : (s.setOutcome o).table = s.table := rfl
@[simp] theorem setOutcome_writeBackQueue (s : State) (o : FrameOutcome) : (s.setOutcome o).writeBackQueue = s.writeBackQueue := rfl
@[simp] theorem setOutcome_notices (s : State) (o : FrameOutcome) : (s.setOutcome o).notices = s.notices := rfl
@[simp] theorem setOutcome_divisor (s : State) (o : FrameOutcome) : (s.setOutcome o).divisor = s.divisor := rfl
@[simp] theorem setOutcome_divider (s : State) (o : FrameOutcome) : (s.setOutcome o).divider = s.divider := rfl
@[simp] theorem setOutcome_memPort (s : State) (o : FrameOutcome) : (s.setOutcome o).memPort = s.memPort := rfl
@[simp] theorem setOutcome_log (s : State) (o : FrameOutcome) : (s.setOutcome o).log = s.log := rfl
@[simp] theorem setOutcome_quiesce (s : State) (o : FrameOutcome) : (s.setOutcome o).quiesce = s.quiesce := rfl
@[simp] theorem setOutcome_partReset (s : State) (o : FrameOutcome) : (s.setOutcome o).partReset = s.partReset := rfl
@[simp] theorem setOutcome_bank (s : State) (o : FrameOutcome) : (s.setOutcome o).bank = s.bank := rfl
@[simp] theorem setOutcome_freeIndex (s : State) (o : FrameOutcome) : (s.setOutcome o).freeIndex = s.freeIndex := rfl
@[simp] theorem setOutcome_pending (s : State) (o : FrameOutcome) : (s.setOutcome o).pending = s.pending := rfl
@[simp] theorem setOutcome_port (s : State) (o : FrameOutcome) (q : Port) : (s.setOutcome o).port q = s.port q := rfl
@[simp] theorem setOutcome_map (s : State) (o : FrameOutcome) (q : Port) : (s.setOutcome o).map q = s.map q := rfl
@[simp] theorem setOutcome_entry (s : State) (o : FrameOutcome) (j : Slot) : (s.setOutcome o).entry j = s.entry j := rfl
@[simp] theorem setOutcome_notice (s : State) (o : FrameOutcome) (q : Port) : (s.setOutcome o).notice q = s.notice q := rfl

/-! ### setPointer -/

@[simp] theorem setPointer_ports (s : State) (q : Requester) : (s.setPointer q).ports = s.ports := rfl
@[simp] theorem setPointer_maps (s : State) (q : Requester) : (s.setPointer q).maps = s.maps := rfl
@[simp] theorem setPointer_table (s : State) (q : Requester) : (s.setPointer q).table = s.table := rfl
@[simp] theorem setPointer_writeBackQueue (s : State) (q : Requester) : (s.setPointer q).writeBackQueue = s.writeBackQueue := rfl
@[simp] theorem setPointer_notices (s : State) (q : Requester) : (s.setPointer q).notices = s.notices := rfl
@[simp] theorem setPointer_divisor (s : State) (q : Requester) : (s.setPointer q).divisor = s.divisor := rfl
@[simp] theorem setPointer_divider (s : State) (q : Requester) : (s.setPointer q).divider = s.divider := rfl
@[simp] theorem setPointer_log (s : State) (q : Requester) : (s.setPointer q).log = s.log := rfl
@[simp] theorem setPointer_link (s : State) (q : Requester) : (s.setPointer q).link = s.link := rfl
@[simp] theorem setPointer_quiesce (s : State) (q : Requester) : (s.setPointer q).quiesce = s.quiesce := rfl
@[simp] theorem setPointer_partReset (s : State) (q : Requester) : (s.setPointer q).partReset = s.partReset := rfl
@[simp] theorem setPointer_bank (s : State) (q : Requester) : (s.setPointer q).bank = s.bank := rfl
@[simp] theorem setPointer_freeIndex (s : State) (q : Requester) : (s.setPointer q).freeIndex = s.freeIndex := rfl
@[simp] theorem setPointer_pending (s : State) (q : Requester) : (s.setPointer q).pending = s.pending := rfl
@[simp] theorem setPointer_port (s : State) (q : Requester) (k : Port) : (s.setPointer q).port k = s.port k := rfl
@[simp] theorem setPointer_map (s : State) (q : Requester) (k : Port) : (s.setPointer q).map k = s.map k := rfl
@[simp] theorem setPointer_entry (s : State) (q : Requester) (j : Slot) : (s.setPointer q).entry j = s.entry j := rfl
@[simp] theorem setPointer_notice (s : State) (q : Requester) (k : Port) : (s.setPointer q).notice k = s.notice k := rfl

/-! ### setQueue -/

@[simp] theorem setQueue_ports (s : State) (l : List Slot) : (s.setQueue l).ports = s.ports := rfl
@[simp] theorem setQueue_maps (s : State) (l : List Slot) : (s.setQueue l).maps = s.maps := rfl
@[simp] theorem setQueue_table (s : State) (l : List Slot) : (s.setQueue l).table = s.table := rfl
@[simp] theorem setQueue_notices (s : State) (l : List Slot) : (s.setQueue l).notices = s.notices := rfl
@[simp] theorem setQueue_divisor (s : State) (l : List Slot) : (s.setQueue l).divisor = s.divisor := rfl
@[simp] theorem setQueue_divider (s : State) (l : List Slot) : (s.setQueue l).divider = s.divider := rfl
@[simp] theorem setQueue_memPort (s : State) (l : List Slot) : (s.setQueue l).memPort = s.memPort := rfl
@[simp] theorem setQueue_log (s : State) (l : List Slot) : (s.setQueue l).log = s.log := rfl
@[simp] theorem setQueue_link (s : State) (l : List Slot) : (s.setQueue l).link = s.link := rfl
@[simp] theorem setQueue_quiesce (s : State) (l : List Slot) : (s.setQueue l).quiesce = s.quiesce := rfl
@[simp] theorem setQueue_partReset (s : State) (l : List Slot) : (s.setQueue l).partReset = s.partReset := rfl
@[simp] theorem setQueue_bank (s : State) (l : List Slot) : (s.setQueue l).bank = s.bank := rfl
@[simp] theorem setQueue_freeIndex (s : State) (l : List Slot) : (s.setQueue l).freeIndex = s.freeIndex := rfl
@[simp] theorem setQueue_pending (s : State) (l : List Slot) : (s.setQueue l).pending = s.pending := rfl
@[simp] theorem setQueue_port (s : State) (l : List Slot) (q : Port) : (s.setQueue l).port q = s.port q := rfl
@[simp] theorem setQueue_map (s : State) (l : List Slot) (q : Port) : (s.setQueue l).map q = s.map q := rfl
@[simp] theorem setQueue_entry (s : State) (l : List Slot) (j : Slot) : (s.setQueue l).entry j = s.entry j := rfl
@[simp] theorem setQueue_notice (s : State) (l : List Slot) (q : Port) : (s.setQueue l).notice q = s.notice q := rfl

/-! ### setOperation -/

@[simp] theorem setOperation_ports (s : State) (op : Option Operation) : (s.setOperation op).ports = s.ports := rfl
@[simp] theorem setOperation_maps (s : State) (op : Option Operation) : (s.setOperation op).maps = s.maps := rfl
@[simp] theorem setOperation_table (s : State) (op : Option Operation) : (s.setOperation op).table = s.table := rfl
@[simp] theorem setOperation_writeBackQueue (s : State) (op : Option Operation) : (s.setOperation op).writeBackQueue = s.writeBackQueue := rfl
@[simp] theorem setOperation_notices (s : State) (op : Option Operation) : (s.setOperation op).notices = s.notices := rfl
@[simp] theorem setOperation_divisor (s : State) (op : Option Operation) : (s.setOperation op).divisor = s.divisor := rfl
@[simp] theorem setOperation_divider (s : State) (op : Option Operation) : (s.setOperation op).divider = s.divider := rfl
@[simp] theorem setOperation_log (s : State) (op : Option Operation) : (s.setOperation op).log = s.log := rfl
@[simp] theorem setOperation_link (s : State) (op : Option Operation) : (s.setOperation op).link = s.link := rfl
@[simp] theorem setOperation_quiesce (s : State) (op : Option Operation) : (s.setOperation op).quiesce = s.quiesce := rfl
@[simp] theorem setOperation_partReset (s : State) (op : Option Operation) : (s.setOperation op).partReset = s.partReset := rfl
@[simp] theorem setOperation_bank (s : State) (op : Option Operation) : (s.setOperation op).bank = s.bank := rfl
@[simp] theorem setOperation_freeIndex (s : State) (op : Option Operation) : (s.setOperation op).freeIndex = s.freeIndex := rfl
@[simp] theorem setOperation_pending (s : State) (op : Option Operation) : (s.setOperation op).pending = s.pending := rfl
@[simp] theorem setOperation_port (s : State) (op : Option Operation) (q : Port) : (s.setOperation op).port q = s.port q := rfl
@[simp] theorem setOperation_map (s : State) (op : Option Operation) (q : Port) : (s.setOperation op).map q = s.map q := rfl
@[simp] theorem setOperation_entry (s : State) (op : Option Operation) (j : Slot) : (s.setOperation op).entry j = s.entry j := rfl
@[simp] theorem setOperation_notice (s : State) (op : Option Operation) (q : Port) : (s.setOperation op).notice q = s.notice q := rfl

/-! ### setBank -/

@[simp] theorem setBank_ports (s : State) (m : List Host.Cell) : (s.setBank m).ports = s.ports := rfl
@[simp] theorem setBank_maps (s : State) (m : List Host.Cell) : (s.setBank m).maps = s.maps := rfl
@[simp] theorem setBank_table (s : State) (m : List Host.Cell) : (s.setBank m).table = s.table := rfl
@[simp] theorem setBank_writeBackQueue (s : State) (m : List Host.Cell) : (s.setBank m).writeBackQueue = s.writeBackQueue := rfl
@[simp] theorem setBank_notices (s : State) (m : List Host.Cell) : (s.setBank m).notices = s.notices := rfl
@[simp] theorem setBank_divisor (s : State) (m : List Host.Cell) : (s.setBank m).divisor = s.divisor := rfl
@[simp] theorem setBank_divider (s : State) (m : List Host.Cell) : (s.setBank m).divider = s.divider := rfl
@[simp] theorem setBank_memPort (s : State) (m : List Host.Cell) : (s.setBank m).memPort = s.memPort := rfl
@[simp] theorem setBank_log (s : State) (m : List Host.Cell) : (s.setBank m).log = s.log := rfl
@[simp] theorem setBank_link (s : State) (m : List Host.Cell) : (s.setBank m).link = s.link := rfl
@[simp] theorem setBank_quiesce (s : State) (m : List Host.Cell) : (s.setBank m).quiesce = s.quiesce := rfl
@[simp] theorem setBank_partReset (s : State) (m : List Host.Cell) : (s.setBank m).partReset = s.partReset := rfl
@[simp] theorem setBank_freeIndex (s : State) (m : List Host.Cell) : (s.setBank m).freeIndex = s.freeIndex := rfl
@[simp] theorem setBank_pending (s : State) (m : List Host.Cell) : (s.setBank m).pending = s.pending := rfl
@[simp] theorem setBank_port (s : State) (m : List Host.Cell) (q : Port) : (s.setBank m).port q = s.port q := rfl
@[simp] theorem setBank_map (s : State) (m : List Host.Cell) (q : Port) : (s.setBank m).map q = s.map q := rfl
@[simp] theorem setBank_entry (s : State) (m : List Host.Cell) (j : Slot) : (s.setBank m).entry j = s.entry j := rfl
@[simp] theorem setBank_notice (s : State) (m : List Host.Cell) (q : Port) : (s.setBank m).notice q = s.notice q := rfl

/-! ### useFree -/

@[simp] theorem useFree_ports (s : State) : (s.useFree).ports = s.ports := rfl
@[simp] theorem useFree_maps (s : State) : (s.useFree).maps = s.maps := rfl
@[simp] theorem useFree_table (s : State) : (s.useFree).table = s.table := rfl
@[simp] theorem useFree_writeBackQueue (s : State) : (s.useFree).writeBackQueue = s.writeBackQueue := rfl
@[simp] theorem useFree_notices (s : State) : (s.useFree).notices = s.notices := rfl
@[simp] theorem useFree_divisor (s : State) : (s.useFree).divisor = s.divisor := rfl
@[simp] theorem useFree_divider (s : State) : (s.useFree).divider = s.divider := rfl
@[simp] theorem useFree_memPort (s : State) : (s.useFree).memPort = s.memPort := rfl
@[simp] theorem useFree_log (s : State) : (s.useFree).log = s.log := rfl
@[simp] theorem useFree_link (s : State) : (s.useFree).link = s.link := rfl
@[simp] theorem useFree_quiesce (s : State) : (s.useFree).quiesce = s.quiesce := rfl
@[simp] theorem useFree_partReset (s : State) : (s.useFree).partReset = s.partReset := rfl
@[simp] theorem useFree_bank (s : State) : (s.useFree).bank = s.bank := rfl
@[simp] theorem useFree_pending (s : State) : (s.useFree).pending = s.pending := rfl
@[simp] theorem useFree_port (s : State) (q : Port) : (s.useFree).port q = s.port q := rfl
@[simp] theorem useFree_map (s : State) (q : Port) : (s.useFree).map q = s.map q := rfl
@[simp] theorem useFree_entry (s : State) (j : Slot) : (s.useFree).entry j = s.entry j := rfl
@[simp] theorem useFree_notice (s : State) (q : Port) : (s.useFree).notice q = s.notice q := rfl

/-! ### setDivider -/

@[simp] theorem setDivider_ports (s : State) (n : Ticks) : (s.setDivider n).ports = s.ports := rfl
@[simp] theorem setDivider_maps (s : State) (n : Ticks) : (s.setDivider n).maps = s.maps := rfl
@[simp] theorem setDivider_table (s : State) (n : Ticks) : (s.setDivider n).table = s.table := rfl
@[simp] theorem setDivider_writeBackQueue (s : State) (n : Ticks) : (s.setDivider n).writeBackQueue = s.writeBackQueue := rfl
@[simp] theorem setDivider_notices (s : State) (n : Ticks) : (s.setDivider n).notices = s.notices := rfl
@[simp] theorem setDivider_divisor (s : State) (n : Ticks) : (s.setDivider n).divisor = s.divisor := rfl
@[simp] theorem setDivider_memPort (s : State) (n : Ticks) : (s.setDivider n).memPort = s.memPort := rfl
@[simp] theorem setDivider_log (s : State) (n : Ticks) : (s.setDivider n).log = s.log := rfl
@[simp] theorem setDivider_link (s : State) (n : Ticks) : (s.setDivider n).link = s.link := rfl
@[simp] theorem setDivider_quiesce (s : State) (n : Ticks) : (s.setDivider n).quiesce = s.quiesce := rfl
@[simp] theorem setDivider_partReset (s : State) (n : Ticks) : (s.setDivider n).partReset = s.partReset := rfl
@[simp] theorem setDivider_bank (s : State) (n : Ticks) : (s.setDivider n).bank = s.bank := rfl
@[simp] theorem setDivider_freeIndex (s : State) (n : Ticks) : (s.setDivider n).freeIndex = s.freeIndex := rfl
@[simp] theorem setDivider_pending (s : State) (n : Ticks) : (s.setDivider n).pending = s.pending := rfl
@[simp] theorem setDivider_port (s : State) (n : Ticks) (q : Port) : (s.setDivider n).port q = s.port q := rfl
@[simp] theorem setDivider_map (s : State) (n : Ticks) (q : Port) : (s.setDivider n).map q = s.map q := rfl
@[simp] theorem setDivider_entry (s : State) (n : Ticks) (j : Slot) : (s.setDivider n).entry j = s.entry j := rfl
@[simp] theorem setDivider_notice (s : State) (n : Ticks) (q : Port) : (s.setDivider n).notice q = s.notice q := rfl

/-! ### setLog -/

@[simp] theorem setLog_ports (s : State) (l : FaultLog) : (s.setLog l).ports = s.ports := rfl
@[simp] theorem setLog_maps (s : State) (l : FaultLog) : (s.setLog l).maps = s.maps := rfl
@[simp] theorem setLog_table (s : State) (l : FaultLog) : (s.setLog l).table = s.table := rfl
@[simp] theorem setLog_writeBackQueue (s : State) (l : FaultLog) : (s.setLog l).writeBackQueue = s.writeBackQueue := rfl
@[simp] theorem setLog_notices (s : State) (l : FaultLog) : (s.setLog l).notices = s.notices := rfl
@[simp] theorem setLog_divisor (s : State) (l : FaultLog) : (s.setLog l).divisor = s.divisor := rfl
@[simp] theorem setLog_divider (s : State) (l : FaultLog) : (s.setLog l).divider = s.divider := rfl
@[simp] theorem setLog_memPort (s : State) (l : FaultLog) : (s.setLog l).memPort = s.memPort := rfl
@[simp] theorem setLog_link (s : State) (l : FaultLog) : (s.setLog l).link = s.link := rfl
@[simp] theorem setLog_quiesce (s : State) (l : FaultLog) : (s.setLog l).quiesce = s.quiesce := rfl
@[simp] theorem setLog_partReset (s : State) (l : FaultLog) : (s.setLog l).partReset = s.partReset := rfl
@[simp] theorem setLog_bank (s : State) (l : FaultLog) : (s.setLog l).bank = s.bank := rfl
@[simp] theorem setLog_freeIndex (s : State) (l : FaultLog) : (s.setLog l).freeIndex = s.freeIndex := rfl
@[simp] theorem setLog_pending (s : State) (l : FaultLog) : (s.setLog l).pending = s.pending := rfl
@[simp] theorem setLog_port (s : State) (l : FaultLog) (q : Port) : (s.setLog l).port q = s.port q := rfl
@[simp] theorem setLog_map (s : State) (l : FaultLog) (q : Port) : (s.setLog l).map q = s.map q := rfl
@[simp] theorem setLog_entry (s : State) (l : FaultLog) (j : Slot) : (s.setLog l).entry j = s.entry j := rfl
@[simp] theorem setLog_notice (s : State) (l : FaultLog) (q : Port) : (s.setLog l).notice q = s.notice q := rfl

/-! ### setQuiesce -/

@[simp] theorem setQuiesce_ports (s : State) (q : QuiesceState) : (s.setQuiesce q).ports = s.ports := rfl
@[simp] theorem setQuiesce_maps (s : State) (q : QuiesceState) : (s.setQuiesce q).maps = s.maps := rfl
@[simp] theorem setQuiesce_table (s : State) (q : QuiesceState) : (s.setQuiesce q).table = s.table := rfl
@[simp] theorem setQuiesce_writeBackQueue (s : State) (q : QuiesceState) : (s.setQuiesce q).writeBackQueue = s.writeBackQueue := rfl
@[simp] theorem setQuiesce_notices (s : State) (q : QuiesceState) : (s.setQuiesce q).notices = s.notices := rfl
@[simp] theorem setQuiesce_divisor (s : State) (q : QuiesceState) : (s.setQuiesce q).divisor = s.divisor := rfl
@[simp] theorem setQuiesce_divider (s : State) (q : QuiesceState) : (s.setQuiesce q).divider = s.divider := rfl
@[simp] theorem setQuiesce_memPort (s : State) (q : QuiesceState) : (s.setQuiesce q).memPort = s.memPort := rfl
@[simp] theorem setQuiesce_log (s : State) (q : QuiesceState) : (s.setQuiesce q).log = s.log := rfl
@[simp] theorem setQuiesce_link (s : State) (q : QuiesceState) : (s.setQuiesce q).link = s.link := rfl
@[simp] theorem setQuiesce_partReset (s : State) (q : QuiesceState) : (s.setQuiesce q).partReset = s.partReset := rfl
@[simp] theorem setQuiesce_bank (s : State) (q : QuiesceState) : (s.setQuiesce q).bank = s.bank := rfl
@[simp] theorem setQuiesce_freeIndex (s : State) (q : QuiesceState) : (s.setQuiesce q).freeIndex = s.freeIndex := rfl
@[simp] theorem setQuiesce_pending (s : State) (q : QuiesceState) : (s.setQuiesce q).pending = s.pending := rfl
@[simp] theorem setQuiesce_port (s : State) (q : QuiesceState) (k : Port) : (s.setQuiesce q).port k = s.port k := rfl
@[simp] theorem setQuiesce_map (s : State) (q : QuiesceState) (k : Port) : (s.setQuiesce q).map k = s.map k := rfl
@[simp] theorem setQuiesce_entry (s : State) (q : QuiesceState) (j : Slot) : (s.setQuiesce q).entry j = s.entry j := rfl
@[simp] theorem setQuiesce_notice (s : State) (q : QuiesceState) (k : Port) : (s.setQuiesce q).notice k = s.notice k := rfl

/-! ### setLink -/

@[simp] theorem setLink_ports (s : State) (l : Link) : (s.setLink l).ports = s.ports := rfl
@[simp] theorem setLink_maps (s : State) (l : Link) : (s.setLink l).maps = s.maps := rfl
@[simp] theorem setLink_table (s : State) (l : Link) : (s.setLink l).table = s.table := rfl
@[simp] theorem setLink_writeBackQueue (s : State) (l : Link) : (s.setLink l).writeBackQueue = s.writeBackQueue := rfl
@[simp] theorem setLink_notices (s : State) (l : Link) : (s.setLink l).notices = s.notices := rfl
@[simp] theorem setLink_divisor (s : State) (l : Link) : (s.setLink l).divisor = s.divisor := rfl
@[simp] theorem setLink_divider (s : State) (l : Link) : (s.setLink l).divider = s.divider := rfl
@[simp] theorem setLink_memPort (s : State) (l : Link) : (s.setLink l).memPort = s.memPort := rfl
@[simp] theorem setLink_log (s : State) (l : Link) : (s.setLink l).log = s.log := rfl
@[simp] theorem setLink_quiesce (s : State) (l : Link) : (s.setLink l).quiesce = s.quiesce := rfl
@[simp] theorem setLink_partReset (s : State) (l : Link) : (s.setLink l).partReset = s.partReset := rfl
@[simp] theorem setLink_bank (s : State) (l : Link) : (s.setLink l).bank = s.bank := rfl
@[simp] theorem setLink_freeIndex (s : State) (l : Link) : (s.setLink l).freeIndex = s.freeIndex := rfl
@[simp] theorem setLink_pending (s : State) (l : Link) : (s.setLink l).pending = s.pending := rfl
@[simp] theorem setLink_port (s : State) (l : Link) (q : Port) : (s.setLink l).port q = s.port q := rfl
@[simp] theorem setLink_map (s : State) (l : Link) (q : Port) : (s.setLink l).map q = s.map q := rfl
@[simp] theorem setLink_entry (s : State) (l : Link) (j : Slot) : (s.setLink l).entry j = s.entry j := rfl
@[simp] theorem setLink_notice (s : State) (l : Link) (q : Port) : (s.setLink l).notice q = s.notice q := rfl

/-! ### setSelection -/

@[simp] theorem setSelection_ports (s : State) (sel : Option Selection) (l : List Bool) : (s.setSelection sel l).ports = s.ports := rfl
@[simp] theorem setSelection_maps (s : State) (sel : Option Selection) (l : List Bool) : (s.setSelection sel l).maps = s.maps := rfl
@[simp] theorem setSelection_table (s : State) (sel : Option Selection) (l : List Bool) : (s.setSelection sel l).table = s.table := rfl
@[simp] theorem setSelection_writeBackQueue (s : State) (sel : Option Selection) (l : List Bool) : (s.setSelection sel l).writeBackQueue = s.writeBackQueue := rfl
@[simp] theorem setSelection_notices (s : State) (sel : Option Selection) (l : List Bool) : (s.setSelection sel l).notices = s.notices := rfl
@[simp] theorem setSelection_divisor (s : State) (sel : Option Selection) (l : List Bool) : (s.setSelection sel l).divisor = s.divisor := rfl
@[simp] theorem setSelection_divider (s : State) (sel : Option Selection) (l : List Bool) : (s.setSelection sel l).divider = s.divider := rfl
@[simp] theorem setSelection_memPort (s : State) (sel : Option Selection) (l : List Bool) : (s.setSelection sel l).memPort = s.memPort := rfl
@[simp] theorem setSelection_log (s : State) (sel : Option Selection) (l : List Bool) : (s.setSelection sel l).log = s.log := rfl
@[simp] theorem setSelection_quiesce (s : State) (sel : Option Selection) (l : List Bool) : (s.setSelection sel l).quiesce = s.quiesce := rfl
@[simp] theorem setSelection_partReset (s : State) (sel : Option Selection) (l : List Bool) : (s.setSelection sel l).partReset = s.partReset := rfl
@[simp] theorem setSelection_bank (s : State) (sel : Option Selection) (l : List Bool) : (s.setSelection sel l).bank = s.bank := rfl
@[simp] theorem setSelection_freeIndex (s : State) (sel : Option Selection) (l : List Bool) : (s.setSelection sel l).freeIndex = s.freeIndex := rfl
@[simp] theorem setSelection_pending (s : State) (sel : Option Selection) (l : List Bool) : (s.setSelection sel l).pending = s.pending := rfl
@[simp] theorem setSelection_port (s : State) (sel : Option Selection) (l : List Bool) (q : Port) : (s.setSelection sel l).port q = s.port q := rfl
@[simp] theorem setSelection_map (s : State) (sel : Option Selection) (l : List Bool) (q : Port) : (s.setSelection sel l).map q = s.map q := rfl
@[simp] theorem setSelection_entry (s : State) (sel : Option Selection) (l : List Bool) (j : Slot) : (s.setSelection sel l).entry j = s.entry j := rfl
@[simp] theorem setSelection_notice (s : State) (sel : Option Selection) (l : List Bool) (q : Port) : (s.setSelection sel l).notice q = s.notice q := rfl

/-! ### Reads after writes -/

@[simp] theorem port_setPort_same (s : State) (p : Port) (u : PortUnit) : (s.setPort p u).port p = u := by
  simp [State.port, State.setPort]

theorem port_setPort (s : State) (p q : Port) (u : PortUnit) :
    (s.setPort p u).port q = if p = q then u else s.port q := by
  simp only [State.port, State.setPort, Vector.getElem_set, Fin.ext_iff]

@[simp] theorem port_setPort_other (s : State) (p q : Port) (u : PortUnit) (h : q ≠ p) : (s.setPort p u).port q = s.port q := by
  rw [port_setPort, if_neg (Ne.symm h)]

@[simp] theorem map_setMap_same (s : State) (p : Port) (m : PortMap) : (s.setMap p m).map p = m := by
  simp [State.map, State.setMap]

@[simp] theorem map_setMap_other (s : State) (p q : Port) (m : PortMap) (h : q ≠ p) : (s.setMap p m).map q = s.map q := by
  simp only [State.map, State.setMap, Vector.getElem_set]
  rw [if_neg (fun e => h (Fin.ext e.symm))]

@[simp] theorem entry_setEntry_same (s : State) (i : Slot) (e : Entry) : (s.setEntry i e).entry i = e := by
  simp [State.entry, State.setEntry]

theorem entry_setEntry (s : State) (i j : Slot) (e : Entry) :
    (s.setEntry i e).entry j = if i = j then e else s.entry j := by
  simp only [State.entry, State.setEntry, Vector.getElem_set, Fin.ext_iff]

@[simp] theorem entry_setEntry_other (s : State) (i j : Slot) (e : Entry) (h : j ≠ i) :
    (s.setEntry i e).entry j = s.entry j := by
  rw [entry_setEntry, if_neg (Ne.symm h)]

@[simp] theorem notice_setNotice_same (s : State) (p : Port) (n : NoticeUnit) : (s.setNotice p n).notice p = n := by
  simp [State.notice, State.setNotice]

theorem notice_setNotice (s : State) (p q : Port) (n : NoticeUnit) :
    (s.setNotice p n).notice q = if p = q then n else s.notice q := by
  simp only [State.notice, State.setNotice, Vector.getElem_set, Fin.ext_iff]

@[simp] theorem notice_setNotice_other (s : State) (p q : Port) (n : NoticeUnit) (h : q ≠ p) :
    (s.setNotice p n).notice q = s.notice q := by
  rw [notice_setNotice, if_neg (Ne.symm h)]

@[simp] theorem port_reply_same (s : State) (p : Port) (r : Reply) :
    (s.reply p r).port p = { s.port p with replies := (s.port p).replies ++ [r] } := by simp [State.reply]

@[simp] theorem port_reply_other (s : State) (p q : Port) (r : Reply) (h : q ≠ p) : (s.reply p r).port q = s.port q := by
  simp [State.reply, h]

@[simp] theorem port_setPhase_same (s : State) (p : Port) (ph : Phase) :
    (s.setPhase p ph).port p = { s.port p with phase := ph } := by simp [State.setPhase]

@[simp] theorem port_setPhase_other (s : State) (p q : Port) (ph : Phase) (h : q ≠ p) :
    (s.setPhase p ph).port q = s.port q := by simp [State.setPhase, h]

@[simp] theorem port_finish_same (s : State) (p : Port) (r : Reply) :
    (s.finish p r).port p = { s.port p with phase := .idle, replies := (s.port p).replies ++ [r] } := by
  simp [State.finish]

@[simp] theorem port_finish_other (s : State) (p q : Port) (r : Reply) (h : q ≠ p) :
    (s.finish p r).port q = s.port q := by simp [State.finish, h]

@[simp] theorem port_setPresented_same (s : State) (p : Port) (r : Option Request) :
    (s.setPresented p r).port p = { s.port p with presented := r } := by simp [State.setPresented]

@[simp] theorem port_setPresented_other (s : State) (p q : Port) (r : Option Request) (h : q ≠ p) :
    (s.setPresented p r).port q = s.port q := by simp [State.setPresented, h]

@[simp] theorem setQueue_queue (s : State) (l : List Slot) : (s.setQueue l).writeBackQueue = l := rfl

@[simp] theorem setOperation_memPort (s : State) (op : Option Operation) :
    (s.setOperation op).memPort = { s.memPort with operation := op } := rfl

@[simp] theorem setPointer_memPort (s : State) (q : Requester) :
    (s.setPointer q).memPort = { s.memPort with pointer := q } := rfl

@[simp] theorem setBank_bank (s : State) (m : List Host.Cell) : (s.setBank m).bank = m := rfl

@[simp] theorem useFree_freeIndex (s : State) : s.useFree.freeIndex = s.freeIndex + 1 := rfl

@[simp] theorem setDivider_divider (s : State) (n : Ticks) : (s.setDivider n).divider = n := rfl

@[simp] theorem setLog_log (s : State) (l : FaultLog) : (s.setLog l).log = l := rfl

@[simp] theorem setQuiesce_quiesce (s : State) (q : QuiesceState) : (s.setQuiesce q).quiesce = q := rfl

@[simp] theorem setLink_link (s : State) (l : Link) : (s.setLink l).link = l := rfl

@[simp] theorem link_setSelection (s : State) (sel : Option Selection) (l : List Bool) :
    (s.setSelection sel l).link = { s.link with selection := sel, sdo := l } := rfl

theorem port_setPhase (s : State) (p q : Port) (ph : Phase) :
    (s.setPhase p ph).port q = if q = p then { s.port q with phase := ph } else s.port q := by
  unfold State.setPhase
  rw [port_setPort]
  by_cases h : q = p
  · subst h; simp
  · simp [h, Ne.symm h]

theorem port_reply (s : State) (p q : Port) (r : Reply) :
    (s.reply p r).port q = if q = p then { s.port q with replies := (s.port q).replies ++ [r] } else s.port q := by
  unfold State.reply
  rw [port_setPort]
  by_cases h : q = p
  · subst h; simp
  · simp [h, Ne.symm h]

theorem port_finish (s : State) (p q : Port) (r : Reply) :
    (s.finish p r).port q =
      if q = p then { s.port q with phase := .idle, replies := (s.port q).replies ++ [r] } else s.port q := by
  unfold State.finish
  rw [port_reply, port_setPhase]
  by_cases h : q = p <;> simp [h]

@[simp] theorem log_logFault (s : State) (r : FaultRecord) : (s.logFault r).log = s.log.append r := rfl

@[simp] theorem link_respond (s : State) (q : Byte) (st : ResponseStatus) (l : List Byte) :
    (s.respond q st l).link = { s.link with slot := some { status := st, seq := q, payload := l } } := rfl

@[simp] theorem link_setOutcome (s : State) (o : FrameOutcome) : (s.setOutcome o).link = { s.link with outcome := o } := rfl

/-- Two states that agree in every field are the same. -/
theorem State.eq_of_fields {s t : State} (ports : s.ports = t.ports) (maps : s.maps = t.maps) (table : s.table = t.table)
    (writeBackQueue : s.writeBackQueue = t.writeBackQueue) (notices : s.notices = t.notices)
    (divisor : s.divisor = t.divisor) (divider : s.divider = t.divider) (memPort : s.memPort = t.memPort)
    (log : s.log = t.log) (link : s.link = t.link) (quiesce : s.quiesce = t.quiesce)
    (partReset : s.partReset = t.partReset) (bank : s.bank = t.bank) (freeIndex : s.freeIndex = t.freeIndex)
    (pending : s.pending = t.pending) : s = t := by
  cases s
  cases t
  simp_all

/-- Two vectors of ports that agree at every port are the same. -/
theorem ports_ext {s t : State} (h : ∀ p, s.port p = t.port p) : s.ports = t.ports := by
  apply Vector.ext
  intro i hi
  exact h ⟨i, hi⟩

/-- Two tables that agree in every slot are the same. -/
theorem table_ext {s t : State} (h : ∀ i, s.entry i = t.entry i) : s.table = t.table := by
  apply Vector.ext
  intro i hi
  exact h ⟨i, hi⟩

/-- Two notice units that agree at every port are the same. -/
theorem notices_ext {s t : State} (h : ∀ p, s.notice p = t.notice p) : s.notices = t.notices := by
  apply Vector.ext
  intro i hi
  exact h ⟨i, hi⟩

end Sys2Proof.Machine
end

