-- ==== Sys2Proof/Laws/Table.lean ====
section
/-! SUPPORT. What the lookups of the claim table find, what an action taken slot by slot does, and what the operations on
notices, the log and waiter lists do. -/

namespace Sys2Proof.Machine

/-! ### Slots and searches -/

@[simp] theorem mem_slots (i : Slot) : i ∈ slots := List.mem_finRange i

theorem slots_nodup : slots.Nodup := List.nodup_finRange 64

theorem slots_sorted : slots.Pairwise (fun i j => i < j) := List.pairwise_lt_finRange 64

/-- The first slot that satisfies a condition. -/
theorem find_slot_eq (f : Slot → Bool) (i : Slot) (hi : f i = true) (hj : ∀ j, j < i → f j = false) :
    slots.find? f = some i := by
  have hs : ∀ l : List Slot, l.Pairwise (fun a b => a < b) → i ∈ l → (∀ j ∈ l, j < i → f j = false) →
      l.find? f = some i := by
    intro l
    induction l with
    | nil => intro _ h _; simp at h
    | cons x l ih =>
      intro hp hm hf
      obtain ⟨hx, hp⟩ := List.pairwise_cons.1 hp
      rcases List.mem_cons.1 hm with rfl | hm
      · simp [hi]
      · rw [List.find?_cons, hf x (by simp) (hx i hm)]
        exact ih hp hm fun j hj => hf j (List.mem_cons_of_mem _ hj)
  exact hs slots slots_sorted (mem_slots i) fun j _ => hj j

/-- The only slot that satisfies a condition. -/
theorem find_slot_unique (f : Slot → Bool) (i : Slot) (hi : f i = true) (hj : ∀ j, f j = true → j = i) :
    slots.find? f = some i :=
  find_slot_eq f i hi fun j hlt => by
    by_contra h
    exact absurd (hj j (by simpa using h)) (ne_of_lt hlt)

theorem find_slot_none (f : Slot → Bool) : slots.find? f = none ↔ ∀ i, f i = false := by
  simp [List.find?_eq_none]

/-! ### Lookup (R2) and allocation (R6) -/

theorem lookup_eq_none {s : State} {a : PhysAddr} : s.lookup a = none ↔ ∀ i, (s.entry i).address ≠ some a := by
  simp [State.lookup]

theorem lookup_address {s : State} {a : PhysAddr} {i : Slot} (h : s.lookup a = some i) : (s.entry i).address = some a := by
  simpa using List.find?_some h

/-- In a sound table the entry with an address is the one that the lookup finds. -/
theorem lookup_eq_some {s : State} {a : PhysAddr} {i : Slot} (hs : s.AddressesDistinct)
    (h : (s.entry i).address = some a) : s.lookup a = some i :=
  find_slot_unique _ i (by simp [h]) fun j hj => hs j i (by simp_all) (by simp_all)

/-- Addresses stay distinct where an entry is replaced by one whose address no other entry has (R2). -/
theorem addressesDistinct_setEntry {s : State} {i : Slot} {e : Entry} (hs : s.AddressesDistinct)
    (he : ∀ j, j ≠ i → ∀ a, e.address = some a → (s.entry j).address ≠ some a) : (s.setEntry i e).AddressesDistinct := by
  intro j k hj hjk
  have hne : ∀ l, l ≠ i → ∀ x : Option PhysAddr, x.isSome = true → e.address = x → (s.entry l).address ≠ x := by
    intro l hl x hx hex
    obtain ⟨a, rfl⟩ := Option.isSome_iff_exists.1 hx
    exact he l hl a hex
  by_cases h1 : j = i <;> by_cases h2 : k = i
  · rw [h1, h2]
  · subst h1
    rw [entry_setEntry_same] at hj hjk
    rw [entry_setEntry_other _ _ _ _ h2] at hjk
    exact absurd hjk.symm (hne k h2 _ hj rfl)
  · subst h2
    rw [entry_setEntry_other _ _ _ _ h1] at hj hjk
    rw [entry_setEntry_same] at hjk
    exact absurd rfl (hne j h1 _ hj hjk.symm)
  · rw [entry_setEntry_other _ _ _ _ h1] at hj hjk
    rw [entry_setEntry_other _ _ _ _ h2] at hjk
    exact hs j k hj hjk

/-- A table without entries names no word twice. -/
theorem addressesDistinct_free {s : State} (h : ∀ i, s.entry i = .free) : s.AddressesDistinct := by
  intro i j hi
  simp [h i, Entry.address] at hi

theorem lowestFree_eq {s : State} {i : Slot} (hi : s.entry i = .free) (hj : ∀ j, j < i → s.entry j ≠ .free) :
    s.lowestFree = some i :=
  find_slot_eq _ i (by simp [hi]) fun j h => by simp [hj j h]

theorem lowestFree_none {s : State} : s.lowestFree = none ↔ ∀ i, s.entry i ≠ .free := by
  simp [State.lowestFree]

theorem lowestFree_free {s : State} {i : Slot} (h : s.lowestFree = some i) : s.entry i = .free := by
  simpa using List.find?_some h

/-- A guard query answers yes only of a HELD entry of the port (R21). -/
theorem guardQuery_held {s : State} {p : Port} {a : PhysAddr} (h : s.guardQuery p a = true) :
    ∃ i e, s.entry i = .held e ∧ e.address = a ∧ e.holder = p := by
  unfold State.guardQuery at h
  split at h
  · rename_i i hi
    split at h
    · rename_i e he
      have := lookup_address hi
      rw [he] at this
      exact ⟨i, e, he, by simpa [Entry.address] using this, by simpa using h⟩
    · simp at h
  · simp at h

/-- In a sound table a guard query answers exactly whether the word is HELD by the port (R21). -/
theorem guardQuery_iff {s : State} {p : Port} {a : PhysAddr} (hs : s.AddressesDistinct) :
    s.guardQuery p a = true ↔ ∃ i e, s.entry i = .held e ∧ e.address = a ∧ e.holder = p := by
  refine ⟨guardQuery_held, fun ⟨i, e, he, ha, hp⟩ => ?_⟩
  simp [State.guardQuery, lookup_eq_some hs (a := a) (i := i) (by simp [he, Entry.address, ha]), he, hp]

/-- An occupancy query answers exactly whether the word has an entry (R21). -/
theorem occupied_iff {s : State} {a : PhysAddr} : s.occupied a = true ↔ ∃ i, (s.entry i).address = some a := by
  unfold State.occupied
  rw [Option.isSome_iff_ne_none, Ne, lookup_eq_none]
  simp

/-! ### Actions slot by slot (R58) -/

/-- What holds before and is kept by the action at every slot holds after. -/
theorem forSlots_induct (P : State → Prop) (f : State → Slot → State) (hf : ∀ s i, P s → P (f s i)) (s : State) (h : P s) :
    P (s.forSlots f) := by
  unfold State.forSlots
  generalize slots = l
  induction l generalizing s with
  | nil => exact h
  | cons i l ih => exact ih _ (hf s i h)

/-- A reading of the state that the action at no slot changes. -/
theorem forSlots_same {α : Sort _} (g : State → α) (f : State → Slot → State) (hf : ∀ s i, g (f s i) = g s) (s : State) :
    g (s.forSlots f) = g s :=
  forSlots_induct (fun t => g t = g s) f (fun t i h => (hf t i).trans h) s rfl

/-- Where the action at a slot changes the entry of that slot only, as a function of it, every entry is changed once. -/
theorem forSlots_entry (f : State → Slot → State) (g : Entry → Entry) (hs : ∀ s i, (f s i).entry i = g (s.entry i))
    (ho : ∀ s i j, j ≠ i → (f s i).entry j = s.entry j) (s : State) (j : Slot) :
    (s.forSlots f).entry j = g (s.entry j) := by
  have key : ∀ l : List Slot, l.Nodup → ∀ s : State,
      (l.foldl f s).entry j = if j ∈ l then g (s.entry j) else s.entry j := by
    intro l
    induction l with
    | nil => intro _ s; simp
    | cons i l ih =>
      intro hn s
      obtain ⟨hi, hn⟩ := List.nodup_cons.1 hn
      rw [List.foldl_cons, ih hn]
      by_cases hj : j = i
      · subst hj; simp [hi, hs]
      · simp [hj, ho s i j hj]
  exact (key slots slots_nodup s).trans (if_pos (mem_slots j))

/-! ### Notices (R112, R120) and the log (R149, R150) -/

theorem arrive_room {u : NoticeUnit} {n : Notice} (h : u.queue.length < 8) :
    u.arrive n = { u with queue := u.queue ++ [n] } := if_pos h

theorem arrive_full {u : NoticeUnit} {n : Notice} (h : ¬ u.queue.length < 8) : u.arrive n = { u with overflow := true } :=
  if_neg h

theorem arrive_length {u : NoticeUnit} {n : Notice} (h : u.queue.length ≤ 8) : (u.arrive n).queue.length ≤ 8 := by
  unfold NoticeUnit.arrive
  split <;> simp <;> omega

theorem append_length {l : FaultLog} {r : FaultRecord} (h : l.records.length ≤ 16) :
    (l.append r).records.length ≤ 16 := by
  unfold FaultLog.append
  split <;> simp <;> omega

/-- A notice reaches the notice unit of its port and no other, and is discarded there in reset (R120). -/
theorem notify_notice (s : State) (p : Port) (n : Notice) (q : Port) :
    (s.notify p n).notice q =
      if q = p ∧ (s.port p).resetAsserted = false then (s.notice q).arrive n else s.notice q := by
  unfold State.notify
  split
  · simp_all
  · rw [notice_setNotice]
    by_cases h : q = p
    · subst h; simp_all
    · simp [h, Ne.symm h]

/-- A notice changes the notice units alone. -/
theorem notify_frame (s : State) (p : Port) (n : Notice) : { s.notify p n with notices := s.notices } = s := by
  unfold State.notify
  split <;> rfl

@[simp] theorem notify_ports (s : State) (p : Port) (n : Notice) : (s.notify p n).ports = s.ports := by
  unfold State.notify; split <;> rfl
@[simp] theorem notify_maps (s : State) (p : Port) (n : Notice) : (s.notify p n).maps = s.maps := by
  unfold State.notify; split <;> rfl
@[simp] theorem notify_table (s : State) (p : Port) (n : Notice) : (s.notify p n).table = s.table := by
  unfold State.notify; split <;> rfl
@[simp] theorem notify_writeBackQueue (s : State) (p : Port) (n : Notice) :
    (s.notify p n).writeBackQueue = s.writeBackQueue := by unfold State.notify; split <;> rfl
@[simp] theorem notify_divisor (s : State) (p : Port) (n : Notice) : (s.notify p n).divisor = s.divisor := by
  unfold State.notify; split <;> rfl
@[simp] theorem notify_divider (s : State) (p : Port) (n : Notice) : (s.notify p n).divider = s.divider := by
  unfold State.notify; split <;> rfl
@[simp] theorem notify_memPort (s : State) (p : Port) (n : Notice) : (s.notify p n).memPort = s.memPort := by
  unfold State.notify; split <;> rfl
@[simp] theorem notify_log (s : State) (p : Port) (n : Notice) : (s.notify p n).log = s.log := by
  unfold State.notify; split <;> rfl
@[simp] theorem notify_link (s : State) (p : Port) (n : Notice) : (s.notify p n).link = s.link := by
  unfold State.notify; split <;> rfl
@[simp] theorem notify_quiesce (s : State) (p : Port) (n : Notice) : (s.notify p n).quiesce = s.quiesce := by
  unfold State.notify; split <;> rfl
@[simp] theorem notify_partReset (s : State) (p : Port) (n : Notice) : (s.notify p n).partReset = s.partReset := by
  unfold State.notify; split <;> rfl
@[simp] theorem notify_bank (s : State) (p : Port) (n : Notice) : (s.notify p n).bank = s.bank := by
  unfold State.notify; split <;> rfl
@[simp] theorem notify_freeIndex (s : State) (p : Port) (n : Notice) : (s.notify p n).freeIndex = s.freeIndex := by
  unfold State.notify; split <;> rfl
@[simp] theorem notify_pending (s : State) (p : Port) (n : Notice) : (s.notify p n).pending = s.pending := by
  unfold State.notify; split <;> rfl
@[simp] theorem notify_port (s : State) (p : Port) (n : Notice) (q : Port) : (s.notify p n).port q = s.port q := by
  unfold State.notify; split <;> rfl
@[simp] theorem notify_map (s : State) (p : Port) (n : Notice) (q : Port) : (s.notify p n).map q = s.map q := by
  unfold State.notify; split <;> rfl
@[simp] theorem notify_entry (s : State) (p : Port) (n : Notice) (i : Slot) : (s.notify p n).entry i = s.entry i := by
  unfold State.notify; split <;> rfl

/-! ### Waiter lists (R45, R46) -/

theorem enrolled_eq_true {l : List Waiter} {p : Port} : enrolled l p = true ↔ ∃ w ∈ l, w.port = p := by
  simp [enrolled]

theorem enrolled_eq_false {l : List Waiter} {p : Port} : enrolled l p = false ↔ ∀ w ∈ l, w.port ≠ p := by
  simp [enrolled]

theorem enrolled_without (l : List Waiter) (p : Port) : enrolled (without l p) p = false := by
  simp [enrolled, without]

/-- The position of a port is one more than the number of records ahead of it (R46). -/
theorem position_eq {before behind : List Waiter} {w : Waiter} {p : Port} (hw : w.port = p)
    (hb : ∀ v ∈ before, v.port ≠ p) : position (before ++ w :: behind) p = before.length + 1 := by
  have hf : (before ++ w :: behind).findIdx (fun v => decide (v.port = p)) = before.length := by
    induction before with
    | nil => simp [List.findIdx_cons, hw]
    | cons v l ih =>
      rw [List.cons_append, List.findIdx_cons, ih fun u hu => hb u (List.mem_cons_of_mem _ hu)]
      simp [hb v (by simp)]
  rw [position, hf]

end Sys2Proof.Machine
end

