-- ==== Sys2Proof/Laws/Loss.lean ====
section
/-! SUPPORT. Everything the loss of a claim can do, field by field (R13, R55 to R57). -/

namespace Sys2Proof.Machine

variable (s : State) (cause : LossCause) (i : Slot) (h : HeldEntry)

/-! ### Telling the new and the former holder -/

theorem tellNew_wait {h : HeldEntry} {w : Waiter} {former : Port} (hw : w.waits = true) :
    s.tellNew h w former = s.finish w.port (.data (replyWord .granted w.port h.waiters.length h.ticket h.payload)) := by
  unfold State.tellNew
  cases hm : w.mode with
  | queue => simp [Waiter.waits, hm] at hw
  | wait _ _ => rfl

theorem tellNew_queue {h : HeldEntry} {w : Waiter} {former : Port} (hw : w.waits = false) :
    s.tellNew h w former = s.notify w.port
      { kind := .handoff, other := former, ticketBits := ticketBits h.ticket, address := h.address } := by
  unfold State.tellNew
  cases hm : w.mode with
  | queue => rfl
  | wait _ _ => simp [Waiter.waits, hm] at hw

/-- Telling the new holder changes ports and notice units alone. -/
theorem tellNew_frame (h : HeldEntry) (w : Waiter) (former : Port) :
    { s.tellNew h w former with ports := s.ports, notices := s.notices } = s := by
  unfold State.tellNew
  split
  · rfl
  · apply State.eq_of_fields <;> simp

/-- Telling the former holder changes notice units and the log alone. -/
theorem tellFormer_frame (h : HeldEntry) (other : Port) (t : Ticket) :
    { s.tellFormer cause h other t with notices := s.notices, log := s.log } = s := by
  cases cause <;> apply State.eq_of_fields <;> simp [State.tellFormer]

/-! ### The loss -/

/-- A loss changes ports, the table, the write-back queue, notice units and the log alone. -/
theorem lose_frame :
    { s.lose cause i h with ports := s.ports, table := s.table, writeBackQueue := s.writeBackQueue
                            notices := s.notices, log := s.log } = s := by
  unfold State.lose
  split
  · cases cause <;> apply State.eq_of_fields <;> simp [State.tellFormer, State.retire] <;> split <;> simp
  · cases cause <;> apply State.eq_of_fields <;> simp [State.tellFormer, State.tellNew] <;> split <;> simp

@[simp] theorem lose_maps : (s.lose cause i h).maps = s.maps := by
  have := congrArg State.maps (lose_frame s cause i h); exact this
@[simp] theorem lose_divisor : (s.lose cause i h).divisor = s.divisor := by
  have := congrArg State.divisor (lose_frame s cause i h); exact this
@[simp] theorem lose_divider : (s.lose cause i h).divider = s.divider := by
  have := congrArg State.divider (lose_frame s cause i h); exact this
@[simp] theorem lose_memPort : (s.lose cause i h).memPort = s.memPort := by
  have := congrArg State.memPort (lose_frame s cause i h); exact this
@[simp] theorem lose_link : (s.lose cause i h).link = s.link := by
  have := congrArg State.link (lose_frame s cause i h); exact this
@[simp] theorem lose_quiesce : (s.lose cause i h).quiesce = s.quiesce := by
  have := congrArg State.quiesce (lose_frame s cause i h); exact this
@[simp] theorem lose_partReset : (s.lose cause i h).partReset = s.partReset := by
  have := congrArg State.partReset (lose_frame s cause i h); exact this
@[simp] theorem lose_bank : (s.lose cause i h).bank = s.bank := by
  have := congrArg State.bank (lose_frame s cause i h); exact this
@[simp] theorem lose_freeIndex : (s.lose cause i h).freeIndex = s.freeIndex := by
  have := congrArg State.freeIndex (lose_frame s cause i h); exact this
@[simp] theorem lose_pending : (s.lose cause i h).pending = s.pending := by
  have := congrArg State.pending (lose_frame s cause i h); exact this

@[simp] theorem tellNew_entry (w : Waiter) (former : Port) (j : Slot) :
    (s.tellNew h w former).entry j = s.entry j := by
  unfold State.tellNew; split <;> simp

@[simp] theorem tellFormer_entry (other : Port) (t : Ticket) (j : Slot) :
    (s.tellFormer cause h other t).entry j = s.entry j := by
  cases cause <;> simp [State.tellFormer]

@[simp] theorem tellNew_queueOf (w : Waiter) (former : Port) :
    (s.tellNew h w former).writeBackQueue = s.writeBackQueue := by
  unfold State.tellNew; split <;> simp

@[simp] theorem tellFormer_queue (other : Port) (t : Ticket) :
    (s.tellFormer cause h other t).writeBackQueue = s.writeBackQueue := by
  cases cause <;> simp [State.tellFormer]

@[simp] theorem tellFormer_port (other : Port) (t : Ticket) (q : Port) :
    (s.tellFormer cause h other t).port q = s.port q := by
  cases cause <;> simp [State.tellFormer]

@[simp] theorem tellNew_log (w : Waiter) (former : Port) : (s.tellNew h w former).log = s.log := by
  unfold State.tellNew; split <;> simp

/-- A loss with no waiter retires the entry (R13). -/
theorem lose_nil (hw : h.waiters = []) :
    s.lose cause i h = (s.retire i h).tellFormer cause h h.holder h.ticket := by
  simp only [State.lose, hw]

/-- A loss with waiters hands the claim to the head (R55). -/
theorem lose_cons {w : Waiter} {rest : List Waiter} (hw : h.waiters = w :: rest) :
    s.lose cause i h =
      ((s.setEntry i (.held (h.handTo w rest))).tellNew
        (h.handTo w rest) w h.holder).tellFormer cause h w.port (h.ticket + 1) := by
  simp only [State.lose, hw]
  rfl

/-- The entry after a loss (R13, R55). -/
theorem lose_entry : (s.lose cause i h).entry i = h.afterLoss := by
  rcases hw : h.waiters with _ | ⟨w, rest⟩ <;> simp only [HeldEntry.afterLoss, hw]
  · rw [lose_nil _ _ _ _ hw]
    simp only [tellFormer_entry, State.retire, HeldEntry.retired]
    split <;> simp
  · rw [lose_cons _ _ _ _ hw]
    simp only [tellFormer_entry, tellNew_entry, entry_setEntry_same, HeldEntry.handTo, leaseOf]
    cases h.writeBack <;> rfl

/-- No other entry changes at a loss (R58). -/
theorem lose_entry_other (j : Slot) (hj : j ≠ i) : (s.lose cause i h).entry j = s.entry j := by
  rcases hw : h.waiters with _ | ⟨w, rest⟩
  · rw [lose_nil _ _ _ _ hw]
    simp only [tellFormer_entry, State.retire]
    split <;> simp [hj]
  · rw [lose_cons _ _ _ _ hw]
    simp [hj]

/-- The slot joins the write-back queue exactly where the entry retires with no write-back in flight (R13). -/
theorem lose_queue :
    (s.lose cause i h).writeBackQueue = if h.queuesAtLoss then s.writeBackQueue ++ [i] else s.writeBackQueue := by
  rcases hw : h.waiters with _ | ⟨w, rest⟩ <;> simp only [HeldEntry.queuesAtLoss, hw]
  · rw [lose_nil _ _ _ _ hw]
    simp only [tellFormer_queue, State.retire]
    cases h.writeBack <;> simp
  · rw [lose_cons _ _ _ _ hw]
    simp

/-- The log takes an EXPIRED record at an expiry and nothing otherwise (R57). -/
theorem lose_log :
    (s.lose cause i h).log =
      if cause = .expiry then
        s.log.append { kind := .expired, port := some h.holder, access := .none, logical := none
                       physical := some h.address, ticket := some h.ticket }
      else s.log := by
  rcases hw : h.waiters with _ | ⟨w, rest⟩
  · rw [lose_nil _ _ _ _ hw]
    have hr : (s.retire i h).log = s.log := by unfold State.retire; split <;> simp
    cases cause <;> simp [State.tellFormer, hr]
  · rw [lose_cons _ _ _ _ hw]
    cases cause <;> simp [State.tellFormer]

@[simp] theorem retire_port (q : Port) : (s.retire i h).port q = s.port q := by
  unfold State.retire; split <;> simp

@[simp] theorem retire_notice (q : Port) : (s.retire i h).notice q = s.notice q := by
  unfold State.retire; split <;> simp

/-- Only the port unit of a WAIT head changes at a loss: its read completes GRANTED (R56). -/
theorem lose_port (q : Port) :
    (s.lose cause i h).port q =
      match h.waiters with
      | [] => s.port q
      | w :: rest =>
        if q = w.port ∧ w.waits = true then
          { s.port q with
            phase := .idle
            replies := (s.port q).replies ++ [.data (replyWord .granted w.port rest.length (h.ticket + 1) h.payload)] }
        else s.port q := by
  rcases hw : h.waiters with _ | ⟨w, rest⟩ <;> simp only
  · rw [lose_nil _ _ _ _ hw]
    simp
  · rw [lose_cons _ _ _ _ hw]
    simp only [tellFormer_port]
    cases hwt : w.waits with
    | true => rw [tellNew_wait _ hwt, port_finish]; simp [HeldEntry.handTo]
    | false => rw [tellNew_queue _ hwt]; simp

/-- The notices of a loss: HANDOFF to a QUEUE head (R56), then EXPIRED or REVOKED to the former holder (R57). -/
theorem lose_notice (q : Port) :
    (s.lose cause i h).notice q =
      let told := match h.waiters with
        | [] => s.notice q
        | w :: _ =>
          if q = w.port ∧ w.waits = false ∧ (s.port q).resetAsserted = false then
            (s.notice q).arrive { kind := .handoff, other := h.holder, ticketBits := ticketBits (h.ticket + 1)
                                  address := h.address }
          else s.notice q
      if q = h.holder ∧ (s.port q).resetAsserted = false then
        match cause with
        | .expiry => told.arrive { kind := .expired, other := h.nextHolder, ticketBits := ticketBits h.nextTicket
                                   address := h.address }
        | .revoke => told.arrive { kind := .revoked, other := h.nextHolder, ticketBits := ticketBits h.nextTicket
                                   address := h.address }
        | .release => told
        | .offline => told
        | .fenceRevoke => told
      else told := by
  have hf : ∀ (u : State) (other : Port) (t : Ticket), u.port q = { s.port q with
        phase := (u.port q).phase, replies := (u.port q).replies } →
      (u.tellFormer cause h other t).notice q =
        if q = h.holder ∧ (s.port q).resetAsserted = false then
          match cause with
          | .expiry => (u.notice q).arrive { kind := .expired, other := other, ticketBits := ticketBits t
                                             address := h.address }
          | .revoke => (u.notice q).arrive { kind := .revoked, other := other, ticketBits := ticketBits t
                                             address := h.address }
          | .release => u.notice q
          | .offline => u.notice q
          | .fenceRevoke => u.notice q
        else u.notice q := by
    intro u other t hu
    have hr : (u.port q).resetAsserted = (s.port q).resetAsserted := by rw [hu]
    cases cause <;> simp only [State.tellFormer, logFault_notice, notify_notice, ite_self]
    all_goals
      by_cases hq : q = h.holder
      · subst hq; simp [hr]
      · simp [hq]
  rcases hw : h.waiters with _ | ⟨w, rest⟩ <;> simp only [HeldEntry.nextHolder, HeldEntry.nextTicket, hw]
  · rw [lose_nil _ _ _ _ hw, hf _ _ _ (by simp)]
    simp
  · rw [lose_cons _ _ _ _ hw, hf]
    · have hn : ∀ (n : HeldEntry) (e : Entry), n.ticket = h.ticket + 1 → n.address = h.address →
          ((s.setEntry i e).tellNew n w h.holder).notice q =
            if q = w.port ∧ w.waits = false ∧ (s.port q).resetAsserted = false then
              (s.notice q).arrive { kind := .handoff, other := h.holder, ticketBits := ticketBits (h.ticket + 1)
                                    address := h.address }
            else s.notice q := by
        intro n e ht ha
        cases hwt : w.waits with
        | true => rw [tellNew_wait _ hwt]; simp
        | false =>
          rw [tellNew_queue _ hwt, notify_notice, ht, ha]
          by_cases hq : q = w.port
          · subst hq; simp
          · simp [hq]
      rw [hn (h.handTo w rest) _ rfl rfl]
    · unfold State.tellNew
      split
      · rw [port_finish]; split <;> simp
      · simp

end Sys2Proof.Machine
end

