-- ==== Sys2Proof/Laws/Access.lean ====
section
/-! SUPPORT. What presenting a request does, case by case, what the end of an event does, and which operation each access is. -/

namespace Sys2Proof.Machine

/-! ### Taking a request (R123) -/

/-- A command of a master presents its request, as a read or as a write. -/
theorem exec_access {c : Instr} {p : Port} {r : Request} (h : Instr.access c = some (p, r)) (s : State) :
    exec c s = .next (match r.direction with
      | .read => s.present p r
      | .write _ => s.presentWrite p r) := by
  cases c <;> simp only [Instr.access, Option.some.injEq, Prod.mk.injEq, reduceCtorEq] at h <;>
    (obtain ⟨rfl, rfl⟩ := h; rfl)

theorem takes_of_accepts {s : State} {p : Port} (h : s.Accepts p) : s.takes p = true := by
  obtain ⟨h1, h2, -, h4, h5⟩ := h
  simp [State.takes, h1, h2, h4, h5]

/-- An ONLINE port that takes requests translates and routes what is presented. -/
theorem present_accepts {s : State} {p : Port} {r : Request} (h : s.Accepts p) :
    s.present p r = (s.setPresented p none).routeRequest p r := by
  have ht := takes_of_accepts h
  obtain ⟨-, h2, h3, -, -⟩ := h
  simp [State.present, h2, ht, State.take, h3]

/-- A FENCED port that takes requests refuses what is presented (R126). -/
theorem present_fenced {s : State} {p : Port} {r : Request} (h : s.takes p = true) (hf : (s.port p).fence = true) :
    s.present p r = (s.setPresented p none).refuse .fenced p r none none := by
  have hr : (s.port p).resetAsserted = false := by
    simp only [State.takes, Bool.and_eq_true, Bool.not_eq_true', decide_eq_true_eq] at h
    exact h.1.1.2
  simp [State.present, hr, h, State.take, hf]

/-- A request that is not taken stays presented (R123). -/
theorem present_waits {s : State} {p : Port} {r : Request} (hr : (s.port p).resetAsserted = false)
    (h : s.takes p = false) : s.present p r = s.setPresented p (some r) := by
  simp [State.present, hr, h]

/-- A master in reset presents nothing (R123). -/
theorem present_offline {s : State} {p : Port} {r : Request} (hr : (s.port p).resetAsserted = true) :
    s.present p r = s := by
  simp [State.present, hr]

theorem takes_false_iff {s : State} {p : Port} (hr : (s.port p).resetAsserted = false) :
    s.takes p = false ↔ s.partReset = true ∨ s.quiesce ≠ .running ∨ (s.port p).phase ≠ .idle := by
  simp only [State.takes, hr]
  cases s.partReset <;> by_cases hq : s.quiesce = .running <;> by_cases hp : (s.port p).phase = .idle <;> simp [hq, hp]

/-! ### Waiting requests (R123) -/

/-- A request is ready where the port takes, did not take before, and has the request presented. -/
theorem mem_ready {s before : State} {p : Port} {r : Request} :
    (p, r) ∈ s.ready before ↔ s.takes p = true ∧ before.takes p = false ∧ (s.port p).presented = some r := by
  simp only [State.ready, List.mem_filterMap, List.mem_finRange, true_and]
  constructor
  · rintro ⟨q, hq⟩
    split at hq
    · rename_i h
      obtain ⟨x, hx, he⟩ := Option.map_eq_some_iff.1 hq
      obtain ⟨rfl, rfl⟩ := Prod.mk.injEq .. ▸ he
      simpa [hx] using h
    · cases hq
  · rintro ⟨h1, h2, h3⟩
    exact ⟨p, by simp [h1, h2, h3]⟩

theorem ready_eq_nil {s before : State} :
    s.ready before = [] ↔ ∀ p, s.takes p = true → before.takes p = true ∨ (s.port p).presented = none := by
  simp only [List.eq_nil_iff_forall_not_mem, Prod.forall, mem_ready, not_and]
  refine ⟨fun h p hp => ?_, fun h p r hp hb hr => ?_⟩
  · cases hb : before.takes p with
    | true => exact .inl rfl
    | false =>
      cases hr : (s.port p).presented with
      | none => exact .inr rfl
      | some r => exact absurd hr (h p r hp hb)
  · rcases h p hp with h | h <;> simp_all

/-- Where no request is ready none is taken. -/
theorem takeReady_nil {s before : State} (h : s.ready before = []) : s.takeReady before = s := by
  simp [State.takeReady, State.takeReadyWithin, h]

@[simp] theorem ready_self (s : State) : s.ready s = [] := ready_eq_nil.2 fun _ h => .inl h

@[simp] theorem takeReady_self (s : State) : s.takeReady s = s := takeReady_nil (ready_self s)

/-- A step that leaves the ports' phases, reset inputs and requests, the quiesce state and part reset leaves no request ready. -/
theorem takeReady_same {s before : State} (hp : s.ports = before.ports) (hq : s.quiesce = before.quiesce)
    (hr : s.partReset = before.partReset) : s.takeReady before = s :=
  takeReady_nil (ready_eq_nil.2 fun p h => .inl (by
    have he : s.port p = before.port p := by simp [State.port, hp]
    rw [← h, State.takes, State.takes, he, hq, hr]))

/-- What the taking of a request and the use of a free value keep, the taking of waiting requests keeps. -/
theorem takeReady_induct (P : State → Prop) {before : State} (ht : ∀ s p r, P s → P (s.take p r))
    (hf : ∀ s, P s → P s.useFree) (s : State) (h : P s) : P (s.takeReady before) := by
  unfold State.takeReady
  generalize 4 = n
  induction n generalizing s with
  | zero => exact h
  | succ n ih =>
    rw [State.takeReadyWithin]
    split
    · refine ih _ (ht _ _ _ ?_)
      unfold State.chosen
      split
      · exact h
      · exact hf _ h
    · exact h

/-! ### The end of an event (R164, R123) -/

/-- Every port is drained exactly where every port is IDLE or STALLED. -/
theorem allDrained_iff {s : State} : s.allDrained = true ↔ ∀ p, (s.port p).phase = .idle ∨ ∃ u, (s.port p).phase = .stalled u := by
  simp only [State.allDrained, List.all_eq_true, List.mem_finRange, true_imp_iff]
  refine forall_congr' fun p => ?_
  cases (s.port p).phase <;> simp [Phase.drained]

/-- Everything that the look at the ports' phases can do: a drain ends where one is in process and every port is drained. -/
theorem drainEnd_cases (s : State) :
    (∃ seq, s.link.process = some seq ∧ s.quiesce = .draining ∧ s.allDrained = true ∧
      s.drainEnd = { s with
        quiesce := .quiesced
        link := { s.link with process := none, slot := some { status := .done, seq := seq, payload := [] } } }) ∨
    ((s.link.process = none ∨ s.quiesce ≠ .draining ∨ s.allDrained = false) ∧ s.drainEnd = s) := by
  unfold State.drainEnd
  split
  · rename_i seq hs
    split
    · rename_i h
      simp only [Bool.and_eq_true, decide_eq_true_eq] at h
      exact .inl ⟨seq, hs, h.1, h.2, rfl⟩
    · rename_i h
      refine .inr ⟨.inr ?_, rfl⟩
      by_cases hq : s.quiesce = .draining
      · exact .inr (by simpa [hq] using h)
      · exact .inl hq
  · rename_i hn
    exact .inr ⟨.inl hn, rfl⟩

/-- Where no drain ends, the end of an event takes the waiting requests and nothing more. -/
theorem endEvent_eq {s before : State} (h : before.allDrained = true ∨ s.allDrained = false ∨ s.quiesce ≠ .draining ∨
    s.link.process = none) : s.endEvent before = s.takeReady before := by
  unfold State.endEvent
  split
  · rfl
  · rename_i hb
    rcases drainEnd_cases s with ⟨seq, hs, hq, ha, -⟩ | ⟨-, he⟩
    · rcases h with h | h | h | h <;> simp_all
    · rw [he]

/-- Where the last port has become drained and a drain is in process, it ends, and no request is taken. -/
theorem endEvent_drain {s before : State} {seq : Byte} (hb : before.allDrained = false) (hs : s.link.process = some seq)
    (hq : s.quiesce = .draining) (ha : s.allDrained = true) :
    s.endEvent before = { s with
      quiesce := .quiesced
      link := { s.link with process := none, slot := some { status := .done, seq := seq, payload := [] } } } := by
  rcases drainEnd_cases s with ⟨seq', hs', -, -, he⟩ | ⟨h, -⟩
  · cases hs.symm.trans hs'
    rw [State.endEvent, if_neg (by simp [hb]), he]
    exact takeReady_nil (ready_eq_nil.2 fun p hp => by simp [State.takes] at hp)
  · rcases h with h | h | h <;> simp_all

/-- An event that leaves the ports' units, the quiesce state and part reset as they were ends with nothing more. -/
theorem endEvent_same {s before : State} (hp : s.ports = before.ports) (hq : s.quiesce = before.quiesce)
    (hr : s.partReset = before.partReset) : s.endEvent before = s := by
  have ha : s.allDrained = before.allDrained := by simp only [State.allDrained, State.port, hp]
  rw [endEvent_eq (by cases h : before.allDrained <;> simp [ha, h]), takeReady_same hp hq hr]

@[simp] theorem endEvent_self (s : State) : s.endEvent s = s := endEvent_same rfl rfl rfl

/-! ### A reply at acceptance -/

/-- A completion at acceptance is all that a reply to a taken request is. -/
theorem replied_at_once (s : State) (p : Port) (r : Reply) : RepliedAtOnce s ((s.setPresented p none).reply p r) p r :=
  ⟨by simp, fun q hq => by simp [hq]⟩

/-- What is unchanged but for the ports' units. -/
theorem reply_frame (s : State) (p : Port) (r : Reply) :
    { (s.setPresented p none).reply p r with ports := s.ports } = s := rfl

/-! ### The claim table does not see the presented request -/

theorem setPresented_lookup (s : State) (p : Port) (r : Option Request) (a : PhysAddr) :
    (s.setPresented p r).lookup a = s.lookup a := rfl

theorem setPresented_lowestFree (s : State) (p : Port) (r : Option Request) :
    (s.setPresented p r).lowestFree = s.lowestFree := rfl

theorem setPresented_guardQuery (s : State) (p q : Port) (r : Option Request) (a : PhysAddr) :
    (s.setPresented p r).guardQuery q a = s.guardQuery q a := rfl

theorem setPresented_waitSlot (s : State) (p q : Port) (r : Option Request) :
    (s.setPresented p r).waitSlot q = s.waitSlot q := rfl

theorem setPresented_waitsOn (s : State) (p q : Port) (r : Option Request) :
    (s.setPresented p r).waitsOn q = s.waitsOn q := by
  have hp : ((s.setPresented p r).port q).phase = (s.port q).phase := by
    by_cases h : q = p
    · subst h; simp
    · simp [h]
  simp only [State.waitsOn, hp, setPresented_waitSlot, setPresented_entry]

/-- The deadlock check does not see the presented request. -/
theorem setPresented_deadlock (s : State) (p q u : Port) (r : Option Request) :
    (s.setPresented p r).deadlock q u = s.deadlock q u := by
  have h : ∀ n v, (s.setPresented p r).walkFinds q n v = s.walkFinds q n v := by
    intro n
    induction n with
    | zero => intro v; rfl
    | succ n ih =>
      intro v
      rw [State.walkFinds, State.walkFinds, setPresented_waitsOn]
      cases s.waitsOn v with
      | none => rfl
      | some x => simp only [ih]
  exact h 3 u

/-! ### Requests taken at an ONLINE port, by what translation hands over (R84) -/

variable {s : State} {p : Port} {a : LogAddr} {x : PhysAddr} {be : Lanes} {d : Word}

@[simp] theorem readRequest_direction : (readRequest a be).direction = .read := rfl
@[simp] theorem readRequest_logical : (readRequest a be).logical = a := rfl
@[simp] theorem readRequest_enables : (readRequest a be).enables = be := rfl
@[simp] theorem writeRequest_direction : (writeRequest a be d).direction = .write d := rfl
@[simp] theorem writeRequest_logical : (writeRequest a be d).logical = a := rfl
@[simp] theorem writeRequest_enables : (writeRequest a be d).enables = be := rfl

theorem present_claim_read {f : ClaimFields} (h : s.Accepts p) (ht : (s.map p).translate a = .memory x (.claim f)) :
    s.present p (readRequest a be) = (s.setPresented p none).claimRead p (readRequest a be) x f := by
  rw [present_accepts h]
  simp [State.routeRequest, ht]

theorem present_claim_write {f : ClaimFields} (h : s.Accepts p) (ht : (s.map p).translate a = .memory x (.claim f)) :
    s.present p (writeRequest a be d) = (s.setPresented p none).claimSegmentWrite p (writeRequest a be d) x d := by
  rw [present_accepts h]
  simp [State.routeRequest, ht]

theorem present_view_read (h : s.Accepts p) (ht : (s.map p).translate a = .memory x .view) :
    s.present p (readRequest a be) = (s.setPresented p none).view p (readRequest a be) x := by
  rw [present_accepts h]
  simp [State.routeRequest, ht]

theorem present_view_write (h : s.Accepts p) (ht : (s.map p).translate a = .memory x .view) :
    s.present p (writeRequest a be d) =
      (s.setPresented p none).refuse .denied p (writeRequest a be d) (some x) none := by
  rw [present_accepts h]
  simp [State.routeRequest, ht]

theorem present_plain {r : Request} {acc : PlainAccess} {g : Option Guard} (h : s.Accepts p)
    (ht : (s.map p).translate r.logical = .memory x (.plain acc g)) :
    s.present p r = (s.setPresented p none).plain p r x acc g := by
  rw [present_accepts h]
  simp [State.routeRequest, ht]

theorem present_notice_read (h : s.Accepts p) (ht : (s.map p).translate a = .notice) :
    s.present p (readRequest a be) = (s.setPresented p none).noticePop p := by
  rw [present_accepts h]
  simp [State.routeRequest, ht]

theorem present_notice_write (h : s.Accepts p) (ht : (s.map p).translate a = .notice) :
    s.present p (writeRequest a be d) = (s.setPresented p none).noticeControl p be d := by
  rw [present_accepts h]
  simp [State.routeRequest, ht]

theorem present_unmapped {r : Request} (h : s.Accepts p) (ht : (s.map p).translate r.logical = .unmapped) :
    s.present p r = (s.setPresented p none).refuse .unmapped p r none none := by
  rw [present_accepts h]
  simp [State.routeRequest, ht]

/-! ### What the taking of a request does not change -/

theorem claimRead_frame (s : State) (p : Port) (r : Request) (a : PhysAddr) (f : ClaimFields) :
    { s.claimRead p r a f with ports := s.ports, table := s.table, writeBackQueue := s.writeBackQueue
                               notices := s.notices } = s := by
  unfold State.claimRead State.attemptHeld State.contend State.revive
  repeat' split
  all_goals first | rfl | (apply State.eq_of_fields <;> simp [State.stall])

theorem claimWrite_frame (s : State) (p : Port) (r : Request) (a : PhysAddr) (d : Word) :
    { s.claimWrite p r a d with ports := s.ports, table := s.table, writeBackQueue := s.writeBackQueue, notices := s.notices
                                log := s.log } = s := by
  unfold State.claimWrite
  repeat' split
  all_goals first | rfl | (apply State.eq_of_fields <;> simp)

theorem routeRequest_frame (s : State) (p : Port) (r : Request) :
    { s.routeRequest p r with ports := s.ports, table := s.table, writeBackQueue := s.writeBackQueue, notices := s.notices
                              log := s.log } = s := by
  unfold State.routeRequest State.plain State.noticePop State.claimSegmentWrite State.view
  repeat' split
  all_goals first | rfl | exact claimWrite_frame s p r _ _ | skip
  exact congrArg (fun t : State => { t with log := s.log }) (claimRead_frame s p r _ _)

/-- The taking of a request changes the ports, the table, the write-back queue, notice units and the log alone. -/
theorem take_frame (s : State) (p : Port) (r : Request) :
    { s.take p r with ports := s.ports, table := s.table, writeBackQueue := s.writeBackQueue, notices := s.notices
                      log := s.log } = s := by
  simp only [State.take]
  split
  · rfl
  · exact congrArg (fun t : State => { t with ports := s.ports }) (routeRequest_frame (s.setPresented p none) p r)

/-- The taking of waiting requests changes no more than that, but for the number of free values used. -/
theorem takeReady_frame (s before : State) :
    { s.takeReady before with ports := s.ports, table := s.table, writeBackQueue := s.writeBackQueue, notices := s.notices
                              log := s.log, freeIndex := s.freeIndex } = s :=
  takeReady_induct
    (fun t : State => { t with ports := s.ports, table := s.table, writeBackQueue := s.writeBackQueue, notices := s.notices
                               log := s.log, freeIndex := s.freeIndex } = s)
    (fun t p r h => (congrArg (fun u : State =>
      { u with ports := s.ports, table := s.table, writeBackQueue := s.writeBackQueue, notices := s.notices
               log := s.log, freeIndex := s.freeIndex }) (take_frame t p r)).trans h)
    (fun _ h => h) s rfl

end Sys2Proof.Machine
end

