-- ==== Sys2Proof/Laws/Bank.lean ====
section
/-! SUPPORT. What a read of the bank gives after a write, and that every memory operation keeps the canonical form. -/

namespace Sys2Proof.Machine

/-! ### Cells -/

@[simp] theorem readCell_nil (c : Nat) : readCell [] c = blankByte := rfl

@[simp] theorem readCell_cons (k : Nat) (v : Byte) (m : List Host.Cell) (c : Nat) :
    readCell ((k, v) :: m) c = if k = c then v else readCell m c := rfl

/-- A cell below every listed cell reads blank. -/
theorem readCell_below (m : List Host.Cell) (c : Nat) (h : ∀ x ∈ m, c < x.1) : readCell m c = blankByte := by
  induction m with
  | nil => rfl
  | cons x m ih =>
    obtain ⟨k, v⟩ := x
    have hk : c < k := h (k, v) (by simp)
    rw [readCell_cons, if_neg (by omega)]
    exact ih fun y hy => h y (by simp [hy])

/-- Keys strictly rising, as a proposition. -/
def Rising (m : List Host.Cell) : Prop := m.Pairwise fun x y => x.1 < y.1

theorem bankWf_iff (m : List Host.Cell) :
    bankWf m = true ↔ Rising m ∧ ∀ x ∈ m, x.1 < 4 * 4194304 ∧ x.2 ≠ blankByte := by
  simp [bankWf, Rising]

theorem writeCell_key (m : List Host.Cell) (c : Nat) (b : Byte) (x : Host.Cell) (h : x ∈ writeCell m c b) :
    x ∈ m ∨ (x.1 = c ∧ x.2 = b ∧ b ≠ blankByte) := by
  induction m with
  | nil =>
    simp only [writeCell] at h
    split at h
    · simp at h
    · rw [List.mem_singleton] at h
      exact .inr ⟨by rw [h], by rw [h], ‹_›⟩
  | cons y m ih =>
    obtain ⟨k, v⟩ := y
    simp only [writeCell] at h
    split at h
    · split at h
      · exact .inl h
      · rcases List.mem_cons.1 h with h | h
        · exact .inr ⟨by rw [h], by rw [h], ‹_›⟩
        · exact .inl h
    · split at h
      · split at h
        · exact .inl (List.mem_cons_of_mem _ h)
        · rcases List.mem_cons.1 h with h | h
          · exact .inr ⟨by rw [h]; exact (Eq.symm ‹c = k›), by rw [h], ‹_›⟩
          · exact .inl (List.mem_cons_of_mem _ h)
      · rcases List.mem_cons.1 h with h | h
        · exact .inl (by rw [h]; simp)
        · exact (ih h).imp (List.mem_cons_of_mem _) id

theorem writeCell_rising (m : List Host.Cell) (c : Nat) (b : Byte) (h : Rising m) : Rising (writeCell m c b) := by
  induction m with
  | nil => simp only [writeCell]; split <;> simp [Rising]
  | cons y m ih =>
    obtain ⟨k, v⟩ := y
    obtain ⟨hk, hm⟩ := List.pairwise_cons.1 h
    simp only [writeCell]
    split
    · split
      · exact h
      · refine List.pairwise_cons.2 ⟨fun x hx => ?_, h⟩
        rcases List.mem_cons.1 hx with hx | hx
        · rw [hx]; assumption
        · exact lt_trans ‹c < k› (hk x hx)
    · split
      · split
        · exact hm
        · exact List.pairwise_cons.2 ⟨hk, hm⟩
      · refine List.pairwise_cons.2 ⟨fun x hx => ?_, ih hm⟩
        rcases writeCell_key m c b x hx with hx | ⟨hx, -⟩
        · exact hk x hx
        · show k < x.1; omega

/-- Writing a cell keeps the canonical form. -/
theorem writeCell_wf (m : List Host.Cell) (c : Nat) (b : Byte) (hm : bankWf m = true) (hc : c < 4 * 4194304) :
    bankWf (writeCell m c b) = true := by
  rw [bankWf_iff] at hm ⊢
  refine ⟨writeCell_rising m c b hm.1, fun x hx => ?_⟩
  rcases writeCell_key m c b x hx with hx | ⟨h1, h2, h3⟩
  · exact hm.2 x hx
  · exact ⟨by omega, by rw [h2]; exact h3⟩

theorem writeCell_same_of_rising (m : List Host.Cell) (c : Nat) (b : Byte) (h : Rising m) :
    readCell (writeCell m c b) c = b := by
  induction m with
  | nil => simp only [writeCell]; split <;> simp_all
  | cons y m ih =>
    obtain ⟨k, v⟩ := y
    obtain ⟨hk, hm⟩ := List.pairwise_cons.1 h
    simp only [writeCell]
    split
    · split
      · rw [readCell_cons, if_neg (by omega), readCell_below m c fun x hx => lt_trans ‹c < k› (hk x hx), ‹b = _›]
      · simp
    · split
      · subst ‹c = k›
        split
        · rw [readCell_below m c hk, ‹b = _›]
        · simp
      · rw [readCell_cons, if_neg (fun e => ‹¬c = k› e.symm), ih hm]

/-- A write leaves every other cell alone. -/
theorem readCell_writeCell_other (m : List Host.Cell) (c d : Nat) (b : Byte) (h : d ≠ c) :
    readCell (writeCell m c b) d = readCell m d := by
  induction m with
  | nil => simp only [writeCell]; split <;> simp [Ne.symm h]
  | cons y m ih =>
    obtain ⟨k, v⟩ := y
    simp only [writeCell]
    split
    · split
      · rfl
      · rw [readCell_cons, if_neg (Ne.symm h)]
    · split
      · subst ‹c = k›
        split <;> simp [Ne.symm h]
      · rw [readCell_cons, readCell_cons, ih]

/-- A write of a cell is what a read of it then gives. -/
theorem readCell_writeCell_same (m : List Host.Cell) (c : Nat) (b : Byte) (h : bankWf m = true) :
    readCell (writeCell m c b) c = b :=
  writeCell_same_of_rising m c b ((bankWf_iff m).1 h).1

/-! ### Lanes and words -/

theorem cellOf_lt (a : PhysAddr) (l : Nat) (h : l < 4) : cellOf a l < 4 * 4194304 := by
  have := a.isLt
  simp only [cellOf]
  omega

theorem writeLane_wf (m : List Host.Cell) (a : PhysAddr) (be : Lanes) (d : Word) (l : Nat) (hl : l < 4)
    (h : bankWf m = true) : bankWf (writeLane m a be d l) = true := by
  unfold writeLane
  split
  · exact writeCell_wf m _ _ h (cellOf_lt a l hl)
  · exact h

/-- Writing a word keeps the canonical form. -/
theorem writeWord_wf (m : List Host.Cell) (a : PhysAddr) (be : Lanes) (d : Word) (h : bankWf m = true) :
    bankWf (writeWord m a be d) = true :=
  writeLane_wf _ a be d 3 (by omega) (writeLane_wf _ a be d 2 (by omega) (writeLane_wf _ a be d 1 (by omega)
    (writeLane_wf _ a be d 0 (by omega) h)))

/-- The bank after reset is in the canonical form. -/
theorem reset_bankWf : bankWf State.reset.bank = true := rfl

theorem readCell_writeLane (m : List Host.Cell) (a : PhysAddr) (be : Lanes) (d : Word) (l : Nat) (c : Nat)
    (h : bankWf m = true) :
    readCell (writeLane m a be d l) c = if c = cellOf a l ∧ be.getLsbD l = true then laneOf d l else readCell m c := by
  unfold writeLane
  split
  · by_cases hc : c = cellOf a l
    · subst hc
      simp_all [readCell_writeCell_same]
    · simp [hc, readCell_writeCell_other]
  · simp_all

theorem readCell_writeLane_other (m : List Host.Cell) (a : PhysAddr) (be : Lanes) (d : Word) (l : Nat) (c : Nat)
    (h : c ≠ cellOf a l) : readCell (writeLane m a be d l) c = readCell m c := by
  unfold writeLane
  split
  · exact readCell_writeCell_other _ _ _ _ h
  · rfl

/-- A write of a word leaves the bytes of every other word alone. -/
theorem writeWord_same_but (m : List Host.Cell) (a : PhysAddr) (be : Lanes) (d : Word) (k : Nat)
    (h : k < 4 * a.toNat ∨ 4 * a.toNat + 4 ≤ k) : readCell (writeWord m a be d) k = readCell m k := by
  unfold writeWord
  rw [readCell_writeLane_other, readCell_writeLane_other, readCell_writeLane_other, readCell_writeLane_other]
    <;> simp only [cellOf] <;> omega

/-- A write of a word changes its enabled lanes to those of the data and keeps the others. -/
theorem readCell_writeWord (m : List Host.Cell) (a : PhysAddr) (be : Lanes) (d : Word) (l : Nat) (hl : l < 4)
    (h : bankWf m = true) :
    readCell (writeWord m a be d) (4 * a.toNat + l) =
      if be.getLsbD l then laneOf d l else readCell m (4 * a.toNat + l) := by
  have h0 := writeLane_wf m a be d 0 (by omega) h
  have h1 := writeLane_wf _ a be d 1 (by omega) h0
  have h2 := writeLane_wf _ a be d 2 (by omega) h1
  unfold writeWord
  rw [readCell_writeLane _ _ _ _ _ _ h2, readCell_writeLane _ _ _ _ _ _ h1, readCell_writeLane _ _ _ _ _ _ h0,
    readCell_writeLane _ _ _ _ _ _ h]
  simp only [cellOf]
  rcases (by omega : l = 0 ∨ l = 1 ∨ l = 2 ∨ l = 3) with rfl | rfl | rfl | rfl <;> simp

/-- A whole word reads back as it was written. -/
theorem readWord_writeWord_same (m : List Host.Cell) (a : PhysAddr) (d : Word) (h : bankWf m = true) :
    readWord (writeWord m a allLanes d) a = d := by
  have hl : ∀ l, l < 4 → readCell (writeWord m a allLanes d) (cellOf a l) = laneOf d l := by
    intro l hl
    have := readCell_writeWord m a allLanes d l hl h
    rw [cellOf, this, if_pos]
    rcases (by omega : l = 0 ∨ l = 1 ∨ l = 2 ∨ l = 3) with rfl | rfl | rfl | rfl <;> rfl
  unfold readWord
  rw [hl 3 (by omega), hl 2 (by omega), hl 1 (by omega), hl 0 (by omega)]
  unfold wordOfLanes laneOf
  ext i hi
  simp only [BitVec.getElem_append, BitVec.getElem_extractLsb']
  repeat' split
  all_goals first | (rw [← BitVec.getLsbD_eq_getElem]; congr 1; omega)

end Sys2Proof.Machine
end

