-- ==== Sys2Proof/Laws/Link.lean ====
section
/-! SUPPORT. The link: byte fields and records read back, what a frame with a good check byte does, and what an accepted
command leaves of the link. -/

namespace Sys2Proof.Machine

/-! ### Ports and slots as bytes (R160) -/

@[simp] theorem portOfByte_ofNat (p : Port) : portOfByte (BitVec.ofNat 8 p.val) = some p := by
  revert p; decide

@[simp] theorem slotOfByte_ofNat (i : Slot) : slotOfByte (BitVec.ofNat 8 i.val) = some i := by
  revert i; decide

theorem portOfByte_none {b : Byte} (h : 3 < b.toNat) : portOfByte b = none := by
  simp [portOfByte, show ¬ b.toNat < 4 by omega]

theorem slotOfByte_none {b : Byte} (h : 63 < b.toNat) : slotOfByte b = none := by
  simp [slotOfByte, show ¬ b.toNat < 64 by omega]

/-! ### Records and bits -/

theorem bytes16_append (x : BitVec 16) : x.extractLsb' 8 8 ++ x.extractLsb' 0 8 = x := by
  apply BitVec.eq_of_getLsbD_eq
  intro i hi
  simp only [BitVec.getLsbD_append, BitVec.getLsbD_extractLsb']
  by_cases h : i < 8
  · simp [h]
  · simp [h, show i - 8 < 8 by omega, show 8 + (i - 8) = i by omega]

theorem bytes32_append (x : BitVec 32) :
    x.extractLsb' 24 8 ++ x.extractLsb' 16 8 ++ x.extractLsb' 8 8 ++ x.extractLsb' 0 8 = x := by
  apply BitVec.eq_of_getLsbD_eq
  intro i hi
  simp only [BitVec.getLsbD_append, BitVec.getLsbD_extractLsb']
  by_cases h1 : i < 8
  · simp [h1]
  · by_cases h2 : i < 16
    · simp [h1, show i - 8 < 8 by omega, show 8 + (i - 8) = i by omega]
    · by_cases h3 : i < 24
      · simp [h1, show ¬ i - 8 < 8 by omega, show i - 8 - 8 < 8 by omega, show 16 + (i - 8 - 8) = i by omega]
      · simp [h1, show ¬ i - 8 < 8 by omega, show ¬ i - 8 - 8 < 8 by omega, show i - 8 - 8 - 8 < 8 by omega,
          show 24 + (i - 8 - 8 - 8) = i by omega]

@[simp] theorem bytes_length (g : Segment) : g.bytes.length = 14 := rfl

/-- The records of a list read back from its bytes (R172). -/
theorem segmentsOf_bytes (l : List Segment) : segmentsOf (l.flatMap Segment.bytes) = l := by
  induction l with
  | nil => rfl
  | cons g l ih =>
    simp only [List.flatMap_cons, Segment.bytes, bytes16, bytes32, List.cons_append, List.nil_append, segmentsOf, ih,
      bytes16_append, bytes32_append]

theorem records_length (l : List Segment) : (l.flatMap Segment.bytes).length = 14 * l.length := by
  induction l with
  | nil => rfl
  | cons g l ih => rw [List.flatMap_cons, List.length_append, ih, List.length_cons, bytes_length]; omega

@[simp] theorem byteBits_length (b : Byte) : (byteBits b).length = 8 := rfl

theorem bitsOf_length (l : List Byte) : (bitsOf l).length = 8 * l.length := by
  induction l with
  | nil => rfl
  | cons b l ih =>
    rw [bitsOf, List.flatMap_cons, List.length_append, ← bitsOf, ih, List.length_cons, byteBits_length]; omega

theorem byteOfBits_byteBits (b : Byte) : byteOfBits (b.getLsbD 7) (b.getLsbD 6) (b.getLsbD 5) (b.getLsbD 4) (b.getLsbD 3)
    (b.getLsbD 2) (b.getLsbD 1) (b.getLsbD 0) = b := by
  revert b; decide +revert

/-- The complete bytes of a run of bits; what is over makes no byte (R156). -/
theorem bytesOf_bitsOf (l : List Byte) (further : List Bool) (h : further.length < 8) : bytesOf (bitsOf l ++ further) = l := by
  induction l with
  | nil =>
    rcases further with _ | ⟨a0, _ | ⟨a1, _ | ⟨a2, _ | ⟨a3, _ | ⟨a4, _ | ⟨a5, _ | ⟨a6, _ | ⟨a7, l⟩⟩⟩⟩⟩⟩⟩⟩ <;>
      first | rfl | (simp only [List.length_cons] at h; omega)
  | cons b l ih =>
    rw [bitsOf, List.flatMap_cons, ← bitsOf]
    simp only [byteBits, List.cons_append, List.nil_append, bytesOf, byteOfBits_byteBits, ih]

/-! ### Frames (R157) -/

/-- The bytes of a frame sum to zero. -/
theorem byteSum_append (l m : List Byte) : byteSum (l ++ m) = byteSum l + byteSum m := by
  induction l with
  | nil => simp [byteSum]
  | cons b l ih =>
    simp only [byteSum, List.cons_append, List.foldr_cons] at ih ⊢
    rw [ih, BitVec.add_assoc]

theorem byteSum_check (l : List Byte) : byteSum (l ++ [checkByte l]) = 0 := by
  rw [byteSum_append, checkByte]
  simp [byteSum]

/-- A frame with a good check byte is taken as its code and payload (R156, R157). -/
theorem receive_frame {s : State} {code seq : Byte} {payload : List Byte} (hr : s.partReset = false) (hc : code ≠ 0)
    (hp : payload.length ≤ 250) :
    s.receive (frameBytes code seq payload) = s.takeFrame seq (commandOfFrame code payload) := by
  have hn : (countByte payload.length).toNat = payload.length := by
    simp only [countByte, BitVec.toNat_ofNat]; omega
  have hs := byteSum_check (code :: seq :: countByte payload.length :: payload)
  simp only [List.cons_append] at hs
  have ht : (payload ++ [checkByte (code :: seq :: countByte payload.length :: payload)]).take (payload.length + 1)
      = payload ++ [checkByte (code :: seq :: countByte payload.length :: payload)] :=
    List.take_of_length_le (by simp)
  have h1 : ¬ 250 < payload.length := by omega
  simp only [frameBytes, List.cons_append, State.receive, hr, hc, hn, ht, hs, Bool.false_eq_true, if_false,
    List.take_left, List.length_append, List.length_singleton]
  simp [h1]

/-- A frame that the link takes starts its command. -/
theorem takeFrame_takes {s : State} {seq : Byte} {c : Command} (h : s.LinkTakes) :
    s.takeFrame seq (some c) = s.start seq c := by
  simp [State.takeFrame, h.1, h.2]

theorem takeFrame_busy {s : State} {seq : Byte} {c : Option Command} (hr : s.partReset = false)
    (h : s.link.process ≠ none) : s.takeFrame seq c = s.setOutcome .rejectedBusy := by
  have : s.link.process.isSome = true := by
    cases hp : s.link.process with
    | none => exact absurd hp h
    | some _ => rfl
  simp [State.takeFrame, hr, this]

theorem takeFrame_reset {s : State} {seq : Byte} {c : Option Command} (hr : s.partReset = true) :
    s.takeFrame seq c = s := by
  simp [State.takeFrame, hr]

/-! ### Responses -/

/-- An accepted command that answers at once leaves the link `Answered`. -/
theorem answered_done (s : State) (seq : Byte) (payload : List Byte) :
    Answered s ((s.setLink { s.link with slot := none, outcome := .accepted }).done seq payload) seq .done payload := rfl

theorem answered_refused (s : State) (seq : Byte) (r : Reason) :
    Answered s ((s.setLink { s.link with slot := none, outcome := .accepted }).refused seq r) seq (.refused r) [] := rfl

end Sys2Proof.Machine
end

