-- ==== Sys2Proof/Laws/Memory.lean ====
section
/-! SUPPORT. The memory port: which requester a grant goes to, what a grant and a completion do case by case, and on which list
a stalled port waits. -/

namespace Sys2Proof.Machine

/-! ### The arbiter (R140) -/

/-- A requester's place in the search order. -/
theorem searchOrder_distance (pointer q : Requester) :
    (searchOrder pointer)[Requester.distance pointer q - 1]? = some q := by
  cases pointer with
  | writeBack =>
    cases q with
    | writeBack => rfl
    | port p => revert p; decide
  | port a =>
    cases q with
    | writeBack => revert a; decide
    | port p => revert a p; decide

theorem distance_pos (pointer q : Requester) : 1 ≤ Requester.distance pointer q := by
  simp [Requester.distance]

theorem distance_inj {pointer q r : Requester} (h : Requester.distance pointer q = Requester.distance pointer r) : q = r := by
  have hq := searchOrder_distance pointer q
  rw [h, searchOrder_distance] at hq
  exact (Option.some.inj hq).symm

theorem mem_searchOrder (pointer q : Requester) : q ∈ searchOrder pointer :=
  List.mem_of_getElem? (searchOrder_distance pointer q)

theorem searchOrder_length (pointer : Requester) : (searchOrder pointer).length = 5 := by
  cases pointer with
  | writeBack => rfl
  | port a => revert a; decide

theorem distance_searchOrder (pointer : Requester) (j : Nat) (hj : j < (searchOrder pointer).length) :
    Requester.distance pointer (searchOrder pointer)[j] = j + 1 := by
  have h5 := searchOrder_length pointer
  have hall : ∀ (pt : Requester) (k : Fin 5), (searchOrder pt)[k.val]?.map (Requester.distance pt) = some (k.val + 1) := by
    intro pt
    cases pt with
    | writeBack => decide
    | port a => revert a; decide
  have := hall pointer ⟨j, by omega⟩
  rw [List.getElem?_eq_getElem hj] at this
  exact Option.some.inj this

/-- The requester that the search finds is the one that stands next. -/
theorem nextGrant_next {s : State} {q : Requester} (h : s.Next q) : s.nextGrant = some q := by
  obtain ⟨hq, hmin⟩ := h
  have hd := searchOrder_distance s.memPort.pointer q
  obtain ⟨hlt, hget⟩ := List.getElem?_eq_some_iff.1 hd
  refine List.find?_eq_some_iff_getElem.2 ⟨hq, _, hlt, hget, fun j hj => ?_⟩
  by_contra hr
  rw [Bool.not_eq_eq_eq_not, Bool.not_true, Bool.not_eq_false] at hr
  have hle := hmin _ hr
  have hdj := distance_searchOrder s.memPort.pointer j (by omega)
  omega

/-- The requester that the search finds stands next. -/
theorem next_of_nextGrant {s : State} {q : Requester} (h : s.nextGrant = some q) : s.Next q := by
  obtain ⟨hq, k, hlt, hget, hbefore⟩ := List.find?_eq_some_iff_getElem.1 h
  have hk := distance_searchOrder s.memPort.pointer k hlt
  rw [hget] at hk
  refine ⟨hq, fun r hr => ?_⟩
  obtain ⟨j, hj, hjr⟩ := List.mem_iff_getElem.1 (mem_searchOrder s.memPort.pointer r)
  have hdj := distance_searchOrder s.memPort.pointer j hj
  rw [hjr] at hdj
  by_contra hc
  have := hbefore j (by omega)
  rw [hjr, hr] at this
  simp at this

theorem nextGrant_none {s : State} : s.nextGrant = none ↔ ∀ q, s.requests q = false := by
  simp only [State.nextGrant, List.find?_eq_none, Bool.not_eq_true]
  exact ⟨fun h q => h q (mem_searchOrder _ q), fun h q _ => h q⟩

/-- A grant at a free memory port acts for the requester that stands next. -/
theorem arbitrate_next {s : State} {q : Requester} (hf : s.MemoryFree) (h : s.Next q) : s.arbitrate = s.grant q := by
  simp [State.arbitrate, hf.1, hf.2, nextGrant_next h]

/-- Where there is no occasion for a grant nothing happens. -/
theorem arbitrate_none {s : State} (h : s.partReset = true ∨ s.memPort.operation ≠ none ∨ ∀ q, s.requests q = false) :
    s.arbitrate = s := by
  rcases h with h | h | h
  · simp [State.arbitrate, h]
  · have : s.memPort.operation.isSome = true := Option.isSome_iff_ne_none.2 h
    simp [State.arbitrate, this]
  · simp [State.arbitrate, nextGrant_none.2 h]

/-! ### Completions (R143) -/

theorem complete_none {s : State} {e : Bool} (h : s.memPort.operation = none) : s.complete e = s := by
  simp [State.complete, h]

/-- A completion that is decided at no entry is in no race. -/
theorem raceAtEntry_none {s : State} {op : Operation} (h : op.atEntry = false) : s.raceAtEntry op = s := by
  simp [State.raceAtEntry, h]

/-- At an idle memory port the next grant refuses a write exactly where it goes to one whose word has an entry. -/
theorem refusesNext_iff {s : State} (hf : s.memPort.operation = none) : s.refusesNext = true ↔ ∃ q t, s.RefusalNext q t := by
  constructor
  · intro h
    simp only [State.refusesNext, hf, Option.isNone_none, Bool.and_true, Bool.and_eq_true, Bool.not_eq_true'] at h
    obtain ⟨hr, h⟩ := h
    split at h
    · rename_i q hq
      cases hp : (s.port q).phase <;> simp only [hp, Phase.queuedTransaction, Option.any_none, Option.any_some,
        Bool.false_eq_true, Bool.and_eq_true, decide_eq_true_eq] at h
      exact ⟨q, _, hr, next_of_nextGrant hq, hp, h.1, occupied_iff.1 h.2⟩
    · cases h
  · rintro ⟨q, t, hr, hn, hp, ht, ha⟩
    simp [State.refusesNext, hf, hr, nextGrant_next hn, hp, Phase.queuedTransaction, ht, occupied_iff.2 ha]

/-- How many ports have a request at the arbiter. -/
def State.queuedPorts (s : State) : Nat := (List.finRange 4).countP fun p => (s.port p).phase.queuedTransaction.isSome

theorem queuedPorts_le (s : State) : s.queuedPorts ≤ 4 := by
  simpa [State.queuedPorts] using List.countP_le_length (l := List.finRange 4)

theorem countP_lt_of_imp {α : Type} {P Q : α → Bool} {l : List α} (himp : ∀ x ∈ l, P x = true → Q x = true) {x : α} (hx : x ∈ l)
    (hP : P x = false) (hQ : Q x = true) : l.countP P < l.countP Q := by
  induction l with
  | nil => cases hx
  | cons y l ih =>
    have hle : l.countP P ≤ l.countP Q := List.countP_mono_left fun z hz => himp z (List.mem_cons_of_mem _ hz)
    rcases List.mem_cons.1 hx with rfl | hx
    · rw [List.countP_cons_of_neg (by simp [hP]), List.countP_cons_of_pos hQ]; omega
    · have := ih (fun z hz => himp z (List.mem_cons_of_mem _ hz)) hx
      have hy := himp y List.mem_cons_self
      simp only [List.countP_cons]
      cases hPy : P y
      · simp only [Bool.false_eq_true, if_false]; omega
      · simp only [hy hPy, if_true]; omega

/-- A grant to a plain write whose word has an entry refuses it, issues nothing and leaves one request fewer at the arbiter. -/
theorem arbitrate_refused {s : State} {q : Port} {t : Transaction} (hf : s.memPort.operation = none) (h : s.RefusalNext q t) :
    RefusedAtGrant s s.arbitrate q t ∧ s.arbitrate.freeIndex = s.freeIndex ∧ s.arbitrate.queuedPorts < s.queuedPorts := by
  obtain ⟨hr, hn, hp, ht, ha⟩ := h
  have he : s.arbitrate = ((s.setPointer (.port q)).logFault (transactionFault .claimword q t)).finish q t.request.direction.fault := by
    rw [arbitrate_next ⟨hr, hf⟩ hn]
    have : (s.setPointer (.port q)).occupied t.physical = true := occupied_iff.2 ha
    simp [State.grant, hp, Phase.queuedTransaction, State.grantPort, ht, this]
  have hports : ∀ r, s.arbitrate.port r =
      if q = r then { s.port q with phase := .idle, replies := (s.port q).replies ++ [t.request.direction.fault] } else s.port r := by
    intro r
    rw [he]
    simp only [State.finish, State.setPhase, State.reply, port_setPort]
    by_cases hqr : q = r <;> simp [hqr]
  refine ⟨⟨⟨by simp [hports], fun r hr => by simp [hports, Ne.symm hr]⟩, ?_, ?_, ?_⟩, ?_, ?_⟩
  · rw [he]; rfl
  · rw [he]; rfl
  · rw [he]; rfl
  · rw [he]; rfl
  · refine countP_lt_of_imp (x := q) (fun r _ h => ?_) (List.mem_finRange q) (by simp [hports, Phase.queuedTransaction])
      (by simp [hp, Phase.queuedTransaction])
    rw [hports] at h
    split at h
    · simp [Phase.queuedTransaction] at h
    · exact h

/-- The grants made before a completion at an entry: while the next one would refuse a plain write, the free value decides. -/
theorem queriesFirst_queriedFirst (fuel : Nat) : ∀ {s : State}, s.memPort.operation = none → s.queuedPorts ≤ fuel →
    QueriedFirst s (State.queriesFirst fuel s) := by
  induction fuel with
  | zero =>
    intro s _ hq
    refine .noWrite fun q t h => ?_
    have : 0 < s.queuedPorts := List.countP_pos_iff.2 ⟨q, List.mem_finRange q, by simp [h.2.2.1, Phase.queuedTransaction]⟩
    omega
  | succ fuel ih =>
    intro s hf hq
    unfold State.queriesFirst
    split
    · rename_i hn
      obtain ⟨q, t, hw⟩ := (refusesNext_iff hf).1 hn
      have hch : s.choose 2 = Config.order s.freeIndex % 2 := rfl
      rw [hch]
      split
      · rename_i h0
        exact .completionFirst hw h0
      · rename_i h0
        obtain ⟨hr, hi, hlt⟩ := arbitrate_refused (s := s.chosen 2) hf hw
        have hlt : (s.chosen 2).arbitrate.queuedPorts < s.queuedPorts := hlt
        refine .queryFirst hw h0 ⟨hr.1, hr.2.1, hr.2.2.1, ?_⟩ (by rw [hi]; rfl) (ih ?_ (by omega))
        · exact congrArg (fun u : State => { u with freeIndex := s.freeIndex }) hr.2.2.2
        · rw [hr.2.1]; exact hf
    · rename_i hn
      exact .noWrite fun q t h => hn ((refusesNext_iff hf).2 ⟨q, t, h⟩)

/-- What the race at an entry can do. -/
theorem raceAtEntry_queriedFirst {s : State} {op : Operation} (hop : op.atEntry = true) (hf : s.memPort.operation = none) :
    QueriedFirst s (s.raceAtEntry op) := by
  rw [State.raceAtEntry, if_pos hop]
  exact queriesFirst_queriedFirst 4 hf (queuedPorts_le s)

/-- What the grants before a completion leave as it was: all but the ports, the arbiter's pointer, the log and the number of free
values used; and of the ports those that are not QUEUED. -/
theorem queriedFirst_frame {s e : State} (h : QueriedFirst s e) :
    { e with ports := s.ports, memPort := s.memPort, log := s.log, freeIndex := s.freeIndex } = s ∧
      e.memPort.operation = s.memPort.operation ∧
      ∀ p, (∀ t, (s.port p).phase ≠ .queued t) → e.port p = s.port p := by
  induction h with
  | noWrite => exact ⟨rfl, rfl, fun _ _ => rfl⟩
  | completionFirst => exact ⟨rfl, rfl, fun _ _ => rfl⟩
  | @queryFirst s m e q t hw _ hr _ _ ih =>
    obtain ⟨⟨hq, hother⟩, hp, -, hframe⟩ := hr
    refine ⟨?_, by rw [ih.2.1, hp], fun p hn => ?_⟩
    · have := congrArg (fun u : State =>
        { u with ports := s.ports, memPort := s.memPort, log := s.log, freeIndex := s.freeIndex }) ih.1
      exact this.trans hframe
    · have hpq : p ≠ q := fun h => hn t (h ▸ hw.2.2.1)
      rw [ih.2.2 p fun u => by rw [hother p hpq]; exact hn u, hother p hpq]

theorem complete_port {s : State} {e g : Bool} {p : Port} {work : PortWork} {a : PhysAddr}
    (h : s.memPort.operation = some (.ofPort p work a g)) :
    s.complete e = (((s.setOperation none).raceAtEntry (.ofPort p work a g)).perform (.ofPort p work a g) e).routePort
      p work a g e (readWord s.bank a) := by
  simp [State.complete, h, Operation.address]

theorem complete_writeBack {s : State} {e : Bool} {i : Slot} {a : PhysAddr} {d : Word}
    (h : s.memPort.operation = some (.ofWriteBack i a d)) :
    s.complete e =
      (if e then
        (((s.setOperation none).raceAtEntry (.ofWriteBack i a d)).perform (.ofWriteBack i a d) e).writeBackError i a (ticketOf d)
        else (((s.setOperation none).raceAtEntry (.ofWriteBack i a d)).perform (.ofWriteBack i a d) e).writeBackDone i) := by
  simp [State.complete, h]

/-- The bank's part of a completion touches the bank and the number of the free values used. -/
theorem perform_frame (s : State) (op : Operation) (e : Bool) :
    { s.perform op e with bank := s.bank, freeIndex := s.freeIndex } = s := by
  rcases hw : op.writes with _ | ⟨a, be, d⟩
  · simp [State.perform, hw]
  · cases e <;> simp only [State.perform, hw, Bool.false_eq_true, if_false, if_true] <;> rfl

/-- A read changes nothing in the bank. -/
theorem perform_read {s : State} {op : Operation} {e : Bool} (h : op.writes = none) : s.perform op e = s := by
  simp [State.perform, h]

/-! ### The list that a stalled port waits on (R54) -/

theorem countP_two_le_sum {f : Slot → Nat} {i j : Slot} (hij : i ≠ j) (hi : 1 ≤ f i) (hj : 1 ≤ f j) :
    2 ≤ (slots.map f).sum := by
  have : ∀ l : List Slot, i ∈ l → j ∈ l → 2 ≤ (l.map f).sum := by
    intro l
    induction l with
    | nil => simp
    | cons x l ih =>
      intro hil hjl
      have hone : ∀ k, k ∈ l → 1 ≤ f k → 1 ≤ (l.map f).sum := fun k hk h1 =>
        le_trans h1 (List.single_le_sum (by simp) _ (List.mem_map.2 ⟨k, hk, rfl⟩))
      rw [List.map_cons, List.sum_cons]
      rcases List.mem_cons.1 hil with rfl | hil'
      · rcases List.mem_cons.1 hjl with rfl | hjl'
        · exact absurd rfl hij
        · have := hone j hjl' hj; omega
      · rcases List.mem_cons.1 hjl with rfl | hjl'
        · have := hone i hil' hi; omega
        · have := ih hil' hjl'; omega
  exact this slots (mem_slots i) (mem_slots j)

/-- In a state with sound stalls the slot of a port's WAIT record is the one that `waitSlot` finds. -/
theorem waitSlot_eq {s : State} (hs : s.StallsSound) {p : Port} {i : Slot} {h : HeldEntry} {w : Waiter}
    (he : s.entry i = .held h) (hw : w ∈ h.waiters) (hp : w.port = p) (hm : w.waits = true) : s.waitSlot p = some i := by
  have hi : ((s.entry i).waiters.any fun w => w.port = p && w.waits) = true := by
    simp only [he, Entry.waiters, List.any_eq_true]
    exact ⟨w, hw, by simp [hp, hm]⟩
  refine find_slot_unique _ i hi fun j hj => ?_
  by_contra hji
  have count : ∀ k, ((s.entry k).waiters.any fun w => w.port = p && w.waits) = true →
      1 ≤ (s.entry k).waiters.countP fun w => w.port = p && w.waits := fun k hk => by
    rw [Nat.succ_le_iff, List.countP_pos_iff]
    simpa using hk
  have h2 := countP_two_le_sum (f := fun k => (s.entry k).waiters.countP fun w => w.port = p && w.waits)
    (Ne.symm hji) (count i hi) (count j hj)
  have h1 := hs p
  simp only [State.waitRecords] at h1
  split at h1 <;> omega

end Sys2Proof.Machine
end

