-- ==== Sys2Proof/Laws/TimeBase.lean ====
section
/-! SUPPORT. What a tick does at the entries before its counts expire, which counts expire, and what the expiries keep. -/

namespace Sys2Proof.Machine

/-! ### The decrement (R67) -/

theorem waiter_tick (w : Waiter) : w.tick = w.counted := by
  unfold Waiter.tick Waiter.counted
  rcases w with ⟨p, _ | ⟨limit, _ | n⟩, lease⟩ <;> rfl

theorem entry_tick (e : Entry) : e.tick = e.counted := by
  cases e with
  | held h => simp only [Entry.tick, Entry.counted, HeldEntry.counted, funext waiter_tick]
  | _ => rfl

/-- The tick reaches every entry once. -/
theorem ticked_entry (s : State) (j : Slot) : (s.forSlots State.tickAt).entry j = (s.entry j).counted := by
  rw [← entry_tick]
  exact forSlots_entry State.tickAt Entry.tick (fun s i => by simp [State.tickAt])
    (fun s i j h => by simp [State.tickAt, h]) s j

/-- The decrement changes the table alone. -/
theorem ticked_frame (s : State) : { s.forSlots State.tickAt with table := s.table } = s := by
  have h := forSlots_same (fun t : State => { t with table := s.table }) State.tickAt (fun t i => rfl) s
  exact h

/-! ### The expiries (R68, R76) -/

theorem mem_expiries_lease {s : State} {i : Slot} :
    .lease i ∈ s.expiries ↔ ∃ h, s.entry i = .held h ∧ h.leaseAt 0 = true := by
  simp only [State.expiries, List.mem_flatMap, mem_slots, true_and]
  constructor
  · rintro ⟨j, hj⟩
    cases he : s.entry j <;> simp only [Entry.expiries, he, List.not_mem_nil, List.mem_append, List.mem_map] at hj
    rename_i h
    rcases hj with hj | ⟨w, -, hw⟩
    · split at hj
      · rename_i hl
        obtain rfl : i = j := by simpa using hj
        exact ⟨h, he, hl⟩
      · cases hj
    · cases hw
  · rintro ⟨h, he, hl⟩
    refine ⟨i, ?_⟩
    rw [he, Entry.expiries, if_pos hl]
    simp

theorem mem_expiries_wait {s : State} {i : Slot} {p : Port} :
    .wait i p ∈ s.expiries ↔ ∃ h, s.entry i = .held h ∧ ∃ w ∈ h.waiters, w.port = p ∧ w.waitAt 0 = true := by
  simp only [State.expiries, List.mem_flatMap, mem_slots, true_and]
  constructor
  · rintro ⟨j, hj⟩
    cases he : s.entry j <;> simp only [Entry.expiries, he, List.not_mem_nil, List.mem_append, List.mem_map] at hj
    rename_i h
    rcases hj with hj | ⟨w, hw, hp⟩
    · split at hj <;> simp at hj
    · obtain ⟨hw, h0⟩ := List.mem_filter.1 hw
      obtain ⟨rfl, rfl⟩ := Expiry.wait.inj hp
      exact ⟨h, he, w, hw, rfl, h0⟩
  · rintro ⟨h, he, w, hw, rfl, h0⟩
    refine ⟨i, ?_⟩
    simp only [he, Entry.expiries, List.mem_append, List.mem_map, List.mem_filter]
    exact .inr ⟨w, ⟨hw, h0⟩, rfl⟩

/-- Where no count stands at 0 nothing expires. -/
theorem expireAll_nil {s : State} (h : s.expiries = []) (n : Nat) : State.expireAll n s = s := by
  cases n <;> simp [State.expireAll, h]

/-- What each expiry and the use of a free value keep, the expiries of a tick keep. -/
theorem expireAll_induct (P : State → Prop) (he : ∀ s e, P s → P (s.expire e)) (hf : ∀ s, P s → P s.useFree) (n : Nat)
    (s : State) (h : P s) : P (State.expireAll n s) := by
  induction n generalizing s with
  | zero => exact h
  | succ n ih =>
    rw [State.expireAll]
    split
    · refine ih _ (he _ _ ?_)
      unfold State.chosen
      split
      · exact h
      · exact hf _ h
    · exact h

/-- A lease that has run out is lost by EXPIRY. -/
theorem expireLease_held {s : State} {i : Slot} {h : HeldEntry} (he : s.entry i = .held h) (hl : h.leaseAt 0 = true) :
    s.expireLease i = s.lose .expiry i h := by
  simp only [State.expireLease, he, hl, if_true]

/-- An expiry changes the ports, the table, the write-back queue, notice units and the log alone. -/
theorem expire_frame (s : State) (e : Expiry) :
    { s.expire e with ports := s.ports, table := s.table, writeBackQueue := s.writeBackQueue, notices := s.notices
                      log := s.log } = s := by
  cases e with
  | lease i =>
    simp only [State.expire, State.expireLease]
    split
    · split
      · exact lose_frame s .expiry i _
      · rfl
    · rfl
  | wait i p =>
    simp only [State.expire, State.expireWait]
    split
    · split <;> rfl
    · rfl

end Sys2Proof.Machine
end

