-- ==== Sys2Proof/WellFormed.lean ====
section
/-! DEFINITION. Which commands the outside world can send as they are written. The machine gives a meaning to every term;
these checks say which terms stand for one event of the hardware. -/

namespace Sys2Proof

/-- At most seven bits are left over after the complete bytes of a selection (R156). -/
def SelectionEvent.wellFormed : SelectionEvent → Bool
  | .whole _ extra => extra < 8
  | _ => true

/-- The checks on a command:
* the bits over of a whole selection are fewer than a byte;
* a FRAME has a first byte other than 00H, which opens it (R156);
* the payload of a MAP-LOAD, its port and count bytes included, is at most 250 bytes (R156);
* an UNKNOWN_COMMAND has a code that the table of commands does not list, and not 00H (R157), and at most 250 payload bytes. -/
def Instr.wellFormed : Instr → Bool
  | .claimAttempt _ _ _ => true
  | .claimWordWrite _ _ _ _ => true
  | .viewRead _ _ _ => true
  | .viewWrite _ _ _ _ => true
  | .plainRead _ _ _ => true
  | .plainWrite _ _ _ _ => true
  | .noticeRead _ _ _ => true
  | .noticeControlWrite _ _ _ _ => true
  | .arbiterGrant => true
  | .plainAccessCompletion _ => true
  | .viewReadCompletion _ => true
  | .grantFetchCompletion _ => true
  | .writeBackCompletion _ => true
  | .tick => true
  | .leaseExpiry _ => true
  | .waitExpiry _ => true
  | .portResetAsserted _ => true
  | .portResetDeasserted _ => true
  | .partReset => true
  | .selection e => e.wellFormed
  | .frame bytes => bytes.head?.any (· ≠ 0)
  | .status _ => true
  | .mapLoad _ _ _ records => records.length ≤ 248
  | .mapRead _ _ => true
  | .mapOpen _ _ => true
  | .fence _ _ _ => true
  | .unfence _ _ => true
  | .quiesce _ => true
  | .quiesceDrainEnd => true
  | .resume _ => true
  | .claimList _ _ _ => true
  | .claimRevoke _ _ _ _ => true
  | .claimClear _ _ => true
  | .logRead _ _ => true
  | .timeSet _ _ => true
  | .unknownCommand code _ payload => 13 < code.toNat && payload.length ≤ 250
  | .tbclkPeriod => true
  | .partResetReleased => true

end Sys2Proof
end

