-- ==== Sys2Proof/Tests/Slice0.lean ====
section
/-! SUPPORT. The author's own tests: what WellFormed refuses, one step of each command on a small state, and for each
statement with hypotheses a state and operands that meet them. Values come from the worked sequences of spec/, or from the
rule that a test's comment names. -/

namespace Sys2Proof.Tests

open Sys2Proof.Machine

-- One thread at a time, which keeps the memory of a build small.
set_option Elab.async false

/-! ### WellFormed refuses what is no command -/

theorem smoke_selection : Instr.wellFormed (.selection (.whole [] 8)) = false ∧
    Instr.wellFormed (.selection (.whole [] 7)) = true := by decide
theorem smoke_frame : Instr.wellFormed (.frame []) = false ∧ Instr.wellFormed (.frame [0, 1, 2]) = false ∧
    Instr.wellFormed (.frame [1]) = true := by decide
theorem smoke_mapLoad : Instr.wellFormed (.mapLoad 0 0 18 (List.replicate 252 0)) = false ∧
    Instr.wellFormed (.mapLoad 0 0 17 (List.replicate 238 0)) = true := by decide +kernel
theorem smoke_unknownCode : Instr.wellFormed (.unknownCommand 13 0 []) = false ∧
    Instr.wellFormed (.unknownCommand 0 0 []) = false ∧ Instr.wellFormed (.unknownCommand 14 0 []) = true := by decide
theorem smoke_unknownPayload : Instr.wellFormed (.unknownCommand 14 0 (List.replicate 251 0)) = false := by decide +kernel
/-- No row of the table has bits, so no word is a command. -/
theorem test_table_has_no_bits : decodeTableWord 8 1 = none ∧ State.reset.withFetchWord 8 1 = State.reset := by decide

/-! ### A small part: the map of the worked example of Chapter 5 at every port, with a POLL segment added -/

/-- A segment record of one list below. -/
def segment (base count frame : Nat) (descriptor : Word) (lease limit : Ticks) : Segment :=
  { basePage := BitVec.ofNat 16 base, pageCount := BitVec.ofNat 16 count, baseFrame := BitVec.ofNat 16 frame
    descriptor := descriptor, lease := lease, limit := limit }

/-- The list: PLAIN, guarded PLAIN, then frame 256 three times as CLAIM (QUEUE, WAIT, POLL) and once as VIEW, NOTICE, and
READ-ONLY PLAIN. -/
def list : List Segment :=
  [segment 0 16 64 0x28000000 0 0, segment 16 4 128 0x29040010 0 0, segment 32 1 256 0x50000000 500 0,
   segment 33 1 256 0x54000000 500 100, segment 34 1 256 0x60000000 0 0, segment 35 1 256 0x4C000000 300 0,
   segment 40 1 0 0x80000000 0 0, segment 512 2 2048 0x24000000 0 0]

/-- The claim word of the tests, and the logical addresses that reach it in the QUEUE, WAIT, POLL and VIEW segments. -/
def word : PhysAddr := 0x40010
def queueAt : LogAddr := 0x8010
def waitAt : LogAddr := 0x8410
def pollAt : LogAddr := 0x8C10
def viewAt : LogAddr := 0x8810

/-- The part after reset with the list at every port. -/
def base : State := { State.reset with maps := Vector.replicate 4 (.mapped list) }

/-- The word with an entry in slot 0. -/
def withEntry (e : Entry) : State := base.setEntry 0 e

/-- An entry HELD by P1 with ticket 8 (worked sequence of Chapter 3, slot 0). -/
def heldEntry (waiters : List Waiter) : HeldEntry :=
  { address := word, holder := 1, ticket := 8, payload := 0x10
    lease := some { length := 400, remaining := 300 }, waiters := waiters, writeBack := none }

def queueRecord (p : Port) : Waiter := { port := p, mode := .queue, lease := 300 }
def waitRecord (p : Port) : Waiter := { port := p, mode := .wait 20 (some 20), lease := 200 }
def retiringEntry (writeBack : Option InFlight) : RetiringEntry :=
  { address := word, ticket := 10, payload := 1, writeBack := writeBack }

def held (waiters : List Waiter) : State := withEntry (.held (heldEntry waiters))

/-- A transaction on the word. -/
def transaction (direction : Direction) (target : Target) (purpose : Purpose) : Transaction :=
  { request := { direction := direction, logical := waitAt, enables := 0xF }, physical := word, target := target
    purpose := purpose }

def waiting : Transaction := transaction .read (.claim { mode := .wait, lease := 500, limit := 100 }) .waitRead
def fetching : Transaction := transaction .read (.claim { mode := .queue, lease := 500, limit := 0 }) .grantFetch
def reading : Transaction := transaction .read (.plain .readWrite none) .plainRead
def writing : Transaction := transaction (.write 0xABCD) (.plain .readWrite none) .plainWrite
def viewing : Transaction := transaction .read .view .viewRead

/-- A port's operation in flight, its transaction IN-MEMORY. -/
def inMemory (s : State) (p : Port) (t : Transaction) (givenUp : Bool) : State :=
  (s.setOperation (some (.ofPort p t.work t.physical givenUp))).setPhase p (if givenUp then .idle else .inMemory t)

/-- What a next state satisfies. -/
def after (o : Host.Outcome State Fault Refusal) (f : State → Bool) : Bool :=
  match o with
  | .next t => f t
  | .fault _ => false
  | .refused _ => false

/-- The completions that a port has returned. -/
def replies (t : State) (p : Port) : List Reply := (t.port p).replies

/-- The word HELD by P1, its lease at a number, the next period a tick. -/
def ending (waiters : List Waiter) (n : Ticks) : State :=
  { withEntry (.held { heldEntry waiters with lease := some { length := 400, remaining := n } }) with divider := 1 }

/-- P3's WAIT record, its count at 1. -/
def waitEnding : Waiter := { port := 3, mode := .wait 20 (some 1), lease := 0 }

/-- The next tick ends the lease and the wait of the head, P3, which is stalled. -/
def bothEnd : State := (ending [waitEnding] 1).setPhase 3 (.stalled waiting)

/-! ### One step of each command -/

/-- Chapter 1, worked sequence, step 1: the lowest FREE slot is FETCHING and the port QUEUED. -/
theorem test_claimAttempt_allocates : after (exec (.claimAttempt 1 queueAt 0xF) base) (fun t =>
    t.entry 0 = .fetching word 1 .none && ((t.port 1).phase.code = 1)) = true := by decide
/-- Chapter 3, worked sequence, step 6: P2's WAIT attempt on P1's entry, P1 stalled on P2's word: DEADLOCK, P1, 2, 8, 0. -/
theorem test_claimAttempt_deadlock : after (exec (.claimAttempt 2 waitAt 0xF)
    (((held [queueRecord 2, waitRecord 3]).setEntry 1 (.held { heldEntry [waitRecord 1] with address := 0x40011, holder := 2 })).setPhase
      1 (.stalled waiting))) (fun t => replies t 2 = [.data 0x76080000]) = true := by decide
/-- Chapter 2, worked sequence, step 11: the ticket of an ended grant is refused STALE. -/
theorem test_claimWordWrite_stale : after (exec (.claimWordWrite 0 pollAt 0xF 0x000A0002) (held []))
    (fun t => replies t 0 = [.writeFault] && t.log.records.map FaultRecord.kind = [.stale]) = true := by decide
/-- Chapter 3, worked sequence, step 8: the release hands the claim to the QUEUE head, with the next ticket, the lease of its
record and a HANDOFF notice. -/
theorem test_claimWordWrite_handoff : after (exec (.claimWordWrite 1 queueAt 0xF 0x00080011) (held [queueRecord 2]))
    (fun t => t.entry 0 = .held { heldEntry [] with holder := 2, ticket := 9, payload := 0x11
                                                    lease := some { length := 300, remaining := 300 } } &&
      (t.notice 2).queue.map Notice.word = [0x16440010]) = true := by decide
/-- Chapter 2, worked sequence, step 6: TAKEN with holder, ticket and payload. -/
theorem test_viewRead : after (exec (.viewRead 3 viewAt 0) (held []))
    (fun t => replies t 3 = [.data 0xA4080010]) = true := by decide
/-- Chapter 5, worked example: a write through the VIEW segment is FAULT DENIED. -/
theorem test_viewWrite : after (exec (.viewWrite 3 viewAt 0xF 0) base)
    (fun t => replies t 3 = [.writeFault] && t.log.records.map FaultRecord.kind = [.denied]) = true := by decide
/-- Chapter 5, worked example: a read of 4010H goes to 20010H and is not guarded; page 20 is unmapped. -/
theorem test_plainRead : after (exec (.plainRead 1 0x4010 0xF) base) (fun t =>
      (t.port 1).phase.queuedTransaction.map Transaction.physical = some 0x20010) = true ∧
    after (exec (.plainRead 1 0x5000 0xF) base) (fun t => t.log.records.map FaultRecord.kind = [.unmapped]) = true := by decide
/-- Chapter 6, worked sequence, step 9: without the guard word a guarded write is FAULT GUARD. -/
theorem test_plainWrite : after (exec (.plainWrite 2 0x4006 0xF 0) (held []))
    (fun t => t.log.records.map FaultRecord.physical = [some 0x20006] && t.log.records.map FaultRecord.kind = [.guard]) = true := by
  decide
/-- Chapter 7, worked sequence, steps 9 and 10: OVERFLOW, then EMPTY, with the port's own number. -/
theorem test_noticeRead : after (exec (.noticeRead 1 0xA3FF 0) (base.setNotice 1 { queue := [], overflow := true, enable := true }))
      (fun t => replies t 1 = [.data 0x54000000] && !t.attention 1) = true ∧
    after (exec (.noticeRead 1 0xA000 0) base) (fun t => replies t 1 = [.data 0x04000000]) = true := by decide
/-- Chapter 7, worked sequence, step 2: lane 0 = 01H sets the enable flag; without lane 0 nothing changes. -/
theorem test_noticeControlWrite : after (exec (.noticeControlWrite 1 0xA000 1 1) base) (fun t => (t.notice 1).enable) = true ∧
    after (exec (.noticeControlWrite 1 0xA000 0xE 1) base) (fun t => !(t.notice 1).enable && replies t 1 = [.written]) = true := by
  decide
/-- Chapter 9, worked sequence, step 2: the pointer names P1; P2 is found and its plain write at a word with an entry is
refused CLAIMWORD. -/
theorem test_arbiterGrant_claimword : after (exec .arbiterGrant
      ((((withEntry (.retiring (retiringEntry none))).setQueue [0]).setPointer (.port 1)).setPhase 2 (.queued writing)))
    (fun t => t.memPort = { operation := none, pointer := .port 2 } && replies t 2 = [.writeFault]) = true := by decide
/-- Chapter 1, worked sequence, step 5: the write-back is issued with the entry's ticket. -/
theorem test_arbiterGrant_writeBack : after (exec .arbiterGrant ((withEntry (.retiring (retiringEntry none))).setQueue [0]))
    (fun t => t.writeBackQueue = [] && t.memPort.operation = some (.ofWriteBack 0 word 0x000A0001)) = true := by decide
/-- R98: lanes 0 and 2 of the word change, the others stay. -/
theorem test_plainAccessCompletion : after (exec (.plainAccessCompletion false) ((inMemory base 0 writing false).setOperation
      (some (.ofPort 0 (.plainWrite 5 0x11223344) word false)))) (fun t => readWord t.bank word = 0x00220044) = true ∧
    after (exec (.plainAccessCompletion true) (inMemory base 0 reading false))
      (fun t => replies t 0 = [.readFault 0] && t.log.records.map FaultRecord.kind = [.memory]) = true := by decide
/-- Chapter 2, worked sequence, step 18: FREE, P0, 0, 11, 0003H from the stored word. -/
theorem test_viewReadCompletion : after (exec (.viewReadCompletion false)
      ((inMemory base 0 viewing false).setBank (writeWord [] word 0xF 0x000B0003)))
    (fun t => replies t 0 = [.data 0x900B0003]) = true := by decide
/-- Chapter 1, worked sequence, step 3: GRANTED, P1, ticket 42, payload 0005H from 41/0005H. -/
theorem test_grantFetchCompletion : after (exec (.grantFetchCompletion false)
      ((inMemory (withEntry (.fetching word 1 .none)) 1 fetching false).setBank (writeWord [] word 0xF 0x00290005)))
    (fun t => replies t 1 = [.data 0x142A0005]) = true := by decide
/-- R11: a memory error of a fetch marked FENCED makes a MEMORY record and then a FENCED record. -/
theorem test_grantFetchCompletion_error : after (exec (.grantFetchCompletion true)
      (inMemory (withEntry (.fetching word 1 .fenced)) 1 fetching false))
    (fun t => t.entry 0 = .free && t.log.records.map FaultRecord.kind = [.memory, .fenced]) = true := by decide
/-- Chapter 1, worked sequence, step 8: 42/0006H reaches memory and the regranted entry joins the queue again. -/
theorem test_writeBackCompletion : after (exec (.writeBackCompletion false)
      ((withEntry (.retiring { retiringEntry (some { written := 42, regranted := true }) with ticket := 43 })).setOperation
        (some (.ofWriteBack 0 word 0x002A0006))))
    (fun t => readWord t.bank word = 0x002A0006 && t.writeBackQueue = [0]) = true := by decide
/-- R17: a write-back error quarantines an entry that was not regranted. -/
theorem test_writeBackCompletion_error : after (exec (.writeBackCompletion true)
      ((withEntry (.retiring (retiringEntry (some { written := 10, regranted := false })))).setOperation
        (some (.ofWriteBack 0 word 0x000A0001))))
    (fun t => t.entry 0 = .quarantined word 10 1) = true := by decide
/-- Chapter 4, worked sequence, steps 3 to 7: a tick decrements a lease; R67, R68: a lease at 1 ends within the tick, and the new
holder's lease is not decremented by it. -/
theorem test_tick : after (exec .tick { held [] with divider := 1 }) (fun t => t.entry 0 = .held { heldEntry [] with
      lease := some { length := 400, remaining := 299 } } && t.divider = 10) = true := by decide +kernel
theorem test_tick_expiry : after (exec .tick (ending [queueRecord 2] 1)) (fun t => t.entry 0 = .held { heldEntry [] with
      holder := 2, ticket := 9, lease := some { length := 300, remaining := 300 } }) = true := by decide +kernel
/-- R65: a period that finds the divider above 1 decrements it. -/
theorem test_tbclkPeriod : after (exec .tbclkPeriod base) (fun t => t.divider = 9) = true := by decide
/-- Chapter 4, worked sequence, step 7: EXPIRY hands the claim on, with a HANDOFF and an EXPIRED notice and a record. -/
theorem test_leaseExpiry : after (exec (.leaseExpiry 0) (ending [queueRecord 2] 1))
    (fun t => (t.notice 1).queue.map Notice.word = [0x2A440010] && (t.notice 2).queue.map Notice.word = [0x16440010] &&
      t.log.records.map FaultRecord.ticket = [some 8]) = true := by decide +kernel
/-- R61: at one tick, the lease first grants the claim to the stalled head. -/
theorem test_leaseExpiry_first : after (exec (.leaseExpiry 0) bothEnd) (fun t => replies t 3 = [.data 0x1C090010]) = true := by
  decide +kernel
/-- Chapter 3, second worked sequence, step 7: TIMEOUT names the holder and the ticket. R61: the wait first times the head out,
and the lease that ends at the same tick then retires the entry. -/
theorem test_waitExpiry : after (exec (.waitExpiry 3) (((ending [waitEnding] 2)).setPhase 3 (.stalled waiting)))
    (fun t => replies t 3 = [.data 0x84080000] && t.entry 0 = .held { heldEntry [] with
      lease := some { length := 400, remaining := 1 } }) = true := by decide +kernel
theorem test_waitExpiry_first : after (exec (.waitExpiry 3) bothEnd)
    (fun t => replies t 3 = [.data 0x84080000] && t.entry 0 = .retiring { retiringEntry none with ticket := 8, payload := 0x10 }) =
      true := by decide +kernel
/-- R123, R165: at RESUME the IDLE port takes its waiting request, here a read of the VIEW segment. -/
theorem test_resume_takes : after (exec (.resume 24) (({ held [] with quiesce := .quiesced }.setPresented 3 (some (readRequest viewAt 0)))))
    (fun t => replies t 3 = [.data 0xA4080010] && (t.port 3).presented = none) = true := by decide +kernel
/-- Chapter 8, worked sequence, step 1: the WAIT head's read completes GRANTED, P3, 1, 15, 0100H. -/
theorem test_portResetAsserted : after (exec (.portResetAsserted 2) ((withEntry (.held { heldEntry [waitRecord 3, queueRecord 0] with
      holder := 2, ticket := 14, payload := 0x100 })).setPhase 3 (.stalled waiting)))
    (fun t => replies t 3 = [.data 0x1D0F0100] && t.log.records = []) = true := by decide +kernel
/-- R130: a released port is ONLINE, its fence flag clear. -/
theorem test_portResetDeasserted : after (exec (.portResetDeasserted 2)
      (base.setPort 2 { PortUnit.atReset with resetAsserted := true }))
    (fun t => decide ((t.port 2).condition = .online)) = true := by decide
/-- R5, R78: part reset empties the table and opens the ports. -/
theorem test_partReset : after (exec .partReset (held [])) (fun t => t.entry 0 = .free && t.map 1 = .openMode && t.partReset) = true := by
  decide
theorem test_partResetReleased : after (exec .partResetReleased { base with partReset := true }) (fun t => t = base) = true := by
  decide
/-- R155, R159: the status byte of a part that has accepted a frame and has a response READY is C1H less bit 7: 41H. -/
theorem test_selection : after (exec (.selection (.whole [0] 0))
      (base.setLink { base.link with outcome := .accepted, slot := some { status := .done, seq := 24, payload := [] } }))
    (fun t => t.link.sdo = byteBits 0x41 && t.link.slot.isSome) = true := by decide
/-- R157: one bit wrong in a frame is REJECTED-CHECK; section 12.3: the frame of QUIESCE, sequence number 21. -/
theorem test_frame : after (exec (.frame [0x07, 21, 0, 0xE4]) base) (fun t => t.link.outcome = .accepted && t.quiesce = .quiesced) = true ∧
    after (exec (.frame [0x07, 21, 0, 0xE5]) base) (fun t => decide (t.link.outcome = .rejectedCheck)) = true := by decide
/-- R161: P1 has the fence flag and is FENCED; one entry is HELD. -/
theorem test_status : after (exec (.status 1) ((held []).setPort 1 { PortUnit.atReset with fence := true })) (fun t =>
    t.link.slot.map Response.payload = some [0, 0x12, 0, 0, 0, 0, 1, 0, 0, 0, 0, 0, 0, 10]) = true := by decide
/-- Chapter 5: the list is installed; a page count of 2 at the NOTICE record is refused NOTICE, record 6. -/
theorem test_mapLoad : after (exec (.mapLoad 22 1 8 (list.flatMap Segment.bytes)) State.reset) (fun t => t.map 1 = .mapped list) = true ∧
    after (exec (.mapLoad 22 1 7 ((list.take 6 ++ [segment 40 2 0 0x80000000 0 0]).flatMap Segment.bytes)) base)
      (fun t => decide (t.link.slot = some { status := .refused .notice, seq := 22, payload := [6] })) = true := by decide
/-- R94: an OPEN port answers mode 0 and count 0. -/
theorem test_mapRead : after (exec (.mapRead 23 1) State.reset) (fun t => t.link.slot.map Response.payload = some [0, 0]) = true := by
  decide
theorem test_mapOpen : after (exec (.mapOpen 23 1) base) (fun t => t.map 1 = .openMode && t.map 2 = .mapped list) = true := by decide
/-- R131: a QUEUED read of the port completes FAULT FENCED, and its record leaves the list. -/
theorem test_fence : after (exec (.fence 9 2 0) ((held [queueRecord 2]).setPhase 2 (.queued reading)))
    (fun t => replies t 2 = [.readFault 0] && t.entry 0 = .held (heldEntry []) && (t.port 2).fence) = true := by decide +kernel
theorem test_unfence : after (exec (.unfence 9 2) (base.setPort 2 { PortUnit.atReset with fence := true }))
    (fun t => !(t.port 2).fence) = true := by decide
/-- Chapter 11, worked sequence, step 1: a port IN-MEMORY keeps the QUIESCE in process. -/
theorem test_quiesce : after (exec (.quiesce 21) (inMemory base 0 writing false))
    (fun t => t.quiesce = .draining && t.link.process = some 21) = true := by decide
/-- Chapter 11, worked sequence, step 3: the completion that leaves every port drained ends the drain with DONE, 21. -/
theorem test_drainEnds : after (exec (.plainAccessCompletion false) ({ inMemory base 0 writing false with quiesce := .draining }.setLink
      { base.link with process := some 21 }))
    (fun t => t.quiesce = .quiesced && t.link.process = none && t.link.slot = some { status := .done, seq := 21, payload := [] }) =
      true := by decide
/-- R164: the row's own look at the ports. -/
theorem test_quiesceDrainEnd : after (exec .quiesceDrainEnd ({ base with quiesce := .draining }.setLink { base.link with process := some 21 }))
    (fun t => t.quiesce = .quiesced && t.link.slot = some { status := .done, seq := 21, payload := [] }) = true := by decide
theorem test_resume : after (exec (.resume 24) { base with quiesce := .quiesced }) (fun t => t.quiesce = .running) = true := by decide
/-- R166, section 12.4: the fifteen bytes of a HELD entry with lease 300 left and one QUEUE record of P2. -/
theorem test_claimList : after (exec (.claimList 3 0 8) (held [queueRecord 2])) (fun t => t.link.slot.map Response.payload =
    some [1, 0, 2, 0x04, 0x00, 0x10, 0x81, 8, 0x00, 0x10, 0x01, 0x2C, 0x81, 0x82, 0, 0]) = true := by decide
/-- R167: revocation with the ticket named; the entry retires, and the response gives state 3 and the ticket. -/
theorem test_claimRevoke : after (exec (.claimRevoke 3 0 0x40010 8) (held [])) (fun t =>
      t.link.slot.map Response.payload = some [3, 0, 8] && (t.notice 1).queue.map Notice.word = [0x36040010]) = true ∧
    after (exec (.claimRevoke 3 0 0x40010 7) (held [])) (fun t => t.link.slot.map Response.status = some (.refused .ticket)) = true := by
  decide
theorem test_claimClear : after (exec (.claimClear 3 0) (withEntry (.quarantined word 5 6))) (fun t => t.entry 0 = .free) = true ∧
    after (exec (.claimClear 3 1) base) (fun t => t.link.slot.map Response.status = some (.refused .notQuarantined)) = true := by decide
/-- R151, section 12.4: a STALE record of P0, its nine bytes. -/
theorem test_logRead : after (exec (.logRead 3 1) (base.setLog { dropped := 3, records := [{ kind := .stale, port := some 0, access := .write, logical := some 0x8C10, physical := some word, ticket := some 10 }] })) (fun t => t.log = { records := [], dropped := 0 } &&
    t.link.slot.map Response.payload = some [1, 3, 5, 0xF4, 0x00, 0x8C, 0x10, 0x04, 0x00, 0x10, 10]) = true := by decide
theorem test_timeSet : after (exec (.timeSet 3 100) base) (fun t => t.divisor = 100 && t.divider = 100) = true ∧
    after (exec (.timeSet 3 0) base) (fun t => t.divisor = 10 && t.link.slot.map Response.status = some (.refused .field)) = true := by
  decide
theorem test_unknownCommand : after (exec (.unknownCommand 0x0E 3 [1, 2]) base)
    (fun t => t.link.slot = some { status := .refused .command, seq := 3, payload := [] }) = true := by decide

/-! ### States and operands that meet the hypotheses of the statements -/

theorem base_free (i : Slot) : base.entry i = .free := by
  simp [base, State.entry, State.reset]

theorem base_distinct : base.AddressesDistinct := addressesDistinct_free base_free

theorem distinct_withEntry (e : Entry) : (withEntry e).AddressesDistinct :=
  addressesDistinct_setEntry base_distinct fun j _ a _ => by simp [base_free, Entry.address]

theorem entry_withEntry (e : Entry) (i : Slot) : (withEntry e).entry i = if 0 = i then e else .free := by
  rw [withEntry, entry_setEntry, base_free]

/-- A second word, HELD by P2 in slot 1. -/
def second (waiters : List Waiter) : Entry := .held { heldEntry waiters with address := 0x40011, holder := 2 }

theorem distinct_second (l m : List Waiter) : ((held l).setEntry 1 (second m)).AddressesDistinct :=
  addressesDistinct_setEntry (distinct_withEntry _) fun j _ a ha => by
    rw [held, entry_withEntry]
    split
    · simp only [second, heldEntry, Entry.address, word, Option.some.injEq] at ha ⊢
      subst ha
      decide
    · simp [Entry.address]

/-- A table without a FREE slot. -/
def full : State := { base with table := Vector.replicate 64 (.quarantined 5 0 0) }

/-- An empty queue with nothing due, and one with a grant due. -/
theorem witness_EmptyQueueStepIsDueOrIdle : base.pending = [] ∧ (∀ q, base.requests q = false) ∧
    ((base.setQueue [0]).pending = [] ∧ (base.setQueue [0]).MemoryFree ∧ (base.setQueue [0]).requests .writeBack = true) := by
  refine ⟨by decide, ?_, by decide⟩
  rintro (q | _)
  · revert q; decide
  · rfl

theorem witness_ClaimAttemptOnFreeWordAllocates : base.Accepts 1 ∧
    (base.map 1).translate queueAt = .memory word (.claim { mode := .queue, lease := 500, limit := 0 }) ∧
    (∀ i, (base.entry i).address ≠ some word) ∧ base.entry 0 = .free := by decide
theorem witness_ClaimAttemptOnFreeWordAllocates_last : (full.setEntry 63 .free).Accepts 1 ∧
    (∀ i, ((full.setEntry 63 .free).entry i).address ≠ some word) ∧ (full.setEntry 63 .free).entry 63 = .free ∧
    ∀ j, j < 63 → (full.setEntry 63 .free).entry j ≠ .free := by decide +kernel
theorem witness_ClaimAttemptOnFreeWordAllocates_full : full.Accepts 1 ∧ (∀ i, (full.entry i).address ≠ some word) ∧
    ∀ i, full.entry i ≠ .free := by decide +kernel

theorem witness_ClaimAttemptAnsweredFromEntry_fetching : (withEntry (.fetching word 0 .fenced)).Accepts 1 ∧
    (withEntry (.fetching word 0 .fenced)).AddressesDistinct ∧
    (withEntry (.fetching word 0 .fenced)).entry 0 = .fetching word 0 .fenced := ⟨by decide, distinct_withEntry _, by decide⟩
theorem witness_ClaimAttemptAnsweredFromEntry_quarantined : (withEntry (.quarantined word 5 6)).Accepts 1 ∧
    (withEntry (.quarantined word 5 6)).AddressesDistinct ∧
    (withEntry (.quarantined word 5 6)).entry 0 = .quarantined word 5 6 := ⟨by decide, distinct_withEntry _, by decide⟩
theorem witness_ClaimAttemptAnsweredFromEntry_poll : (held [waitRecord 3]).Accepts 0 ∧
    ((held [waitRecord 3]).map 0).translate pollAt = .memory word (.claim { mode := .poll, lease := 300, limit := 0 }) ∧
    (held [waitRecord 3]).AddressesDistinct ∧ (held [waitRecord 3]).entry 0 = .held (heldEntry [waitRecord 3]) ∧
    ∀ w ∈ [waitRecord 3], w.port ≠ 0 := ⟨by decide, by decide, distinct_withEntry _, by decide, by decide⟩
theorem witness_ClaimAttemptAnsweredFromEntry_enrolled : (held [waitRecord 3, queueRecord 0]).Accepts 0 ∧
    ((held [waitRecord 3, queueRecord 0]).map 0).translate queueAt =
      .memory word (.claim { mode := .queue, lease := 500, limit := 0 }) ∧
    (held [waitRecord 3, queueRecord 0]).AddressesDistinct ∧
    (heldEntry [waitRecord 3, queueRecord 0]).waiters = [waitRecord 3] ++ queueRecord 0 :: [] ∧
    ∀ v ∈ [waitRecord 3], v.port ≠ 0 := ⟨by decide, by decide, distinct_withEntry _, by decide, by decide⟩

theorem witness_HolderAttemptRenewsLease : (held []).Accepts 1 ∧
    ((held []).map 1).translate waitAt = .memory (heldEntry []).address (.claim { mode := .wait, lease := 500, limit := 100 }) ∧
    (held []).AddressesDistinct ∧ (held []).entry 0 = .held (heldEntry []) ∧ (heldEntry []).holder = 1 :=
  ⟨by decide, by decide, distinct_withEntry _, by decide, rfl⟩

theorem witness_RetiringEntryRevived : (withEntry (.retiring (retiringEntry none))).Accepts 3 ∧
    ((withEntry (.retiring (retiringEntry none))).map 3).translate pollAt =
      .memory (retiringEntry none).address (.claim { mode := .poll, lease := 300, limit := 0 }) ∧
    (withEntry (.retiring (retiringEntry none))).AddressesDistinct ∧
    (withEntry (.retiring (retiringEntry none))).entry 0 = .retiring (retiringEntry none) :=
  ⟨by decide, by decide, distinct_withEntry _, by decide⟩

theorem witness_QueueAttemptEnrols : (held [waitRecord 3]).Accepts 2 ∧
    ((held [waitRecord 3]).map 2).translate queueAt =
      .memory (heldEntry []).address (.claim { mode := .queue, lease := 500, limit := 0 }) ∧
    (held [waitRecord 3]).AddressesDistinct ∧ (held [waitRecord 3]).entry 0 = .held (heldEntry [waitRecord 3]) ∧
    ∀ w ∈ [waitRecord 3], w.port ≠ 2 := ⟨by decide, by decide, distinct_withEntry _, by decide, by decide⟩

/-- P1, the holder of the word, is stalled on the second word, which P2 holds. -/
def cycle : State := ((held [queueRecord 2]).setEntry 1 (second [waitRecord 1])).setPhase 1 (.stalled waiting)

theorem witness_WaitAttemptStallsOrDeadlocks_deadlock : cycle.Accepts 2 ∧
    (cycle.map 2).translate waitAt = .memory word (.claim { mode := .wait, lease := 500, limit := 100 }) ∧
    cycle.AddressesDistinct ∧ cycle.ListsSound ∧ cycle.entry 0 = .held (heldEntry [queueRecord 2]) ∧
    cycle.deadlock 2 1 = true :=
  ⟨by decide, by decide, distinct_second _ _, by decide +kernel, by decide, by decide +kernel⟩
theorem witness_WaitAttemptStallsOrDeadlocks_enrols : (held []).Accepts 2 ∧ (held []).AddressesDistinct ∧ (held []).ListsSound ∧
    (held []).entry 0 = .held (heldEntry []) ∧ (held []).deadlock 2 1 = false :=
  ⟨by decide, distinct_withEntry _, by decide +kernel, by decide, by decide⟩
theorem witness_WaitAttemptStallsOrDeadlocks_converts : (held [waitRecord 3, queueRecord 2]).Accepts 2 ∧
    (held [waitRecord 3, queueRecord 2]).AddressesDistinct ∧ (held [waitRecord 3, queueRecord 2]).ListsSound ∧
    (held [waitRecord 3, queueRecord 2]).deadlock 2 1 = false ∧
    (heldEntry [waitRecord 3, queueRecord 2]).waiters = [waitRecord 3] ++ queueRecord 2 :: [] :=
  ⟨by decide, distinct_withEntry _, by decide +kernel, by decide, by decide⟩

theorem witness_DeadlockCheckFollowsStalls : cycle.StallsSound ∧ cycle.waitsOn 1 = some 2 := by decide +kernel

theorem witness_ReleasePassesClaimOn : (held [queueRecord 2]).Accepts 1 ∧
    ((held [queueRecord 2]).map 1).translate pollAt =
      .memory (heldEntry []).address (.claim { mode := .poll, lease := 300, limit := 0 }) ∧
    (held [queueRecord 2]).AddressesDistinct ∧ (held [queueRecord 2]).ListsSound ∧
    (held [queueRecord 2]).entry 0 = .held (heldEntry [queueRecord 2]) ∧ (0x00080011 : Word).extractLsb' 16 8 = (heldEntry []).ticket :=
  ⟨by decide, by decide, distinct_withEntry _, by decide +kernel, by decide, by decide⟩
theorem witness_ReleasePassesClaimOn_noWaiter : (held []).Accepts 1 ∧ (held []).AddressesDistinct ∧ (held []).ListsSound ∧
    (held []).entry 0 = .held (heldEntry []) := ⟨by decide, distinct_withEntry _, by decide +kernel, by decide⟩

/-- P1 holds with ticket 8 and writes ticket 7; P0 is neither holder nor enrolled. -/
theorem witness_StaleWriteRefused : (held []).Accepts 1 ∧ (held []).Accepts 0 ∧
    ((held []).map 1).translate pollAt = .memory word (.claim { mode := .poll, lease := 300, limit := 0 }) ∧
    ∀ i h, (held []).entry i = .held h → h.address = word →
      (h.holder = 1 → h.ticket ≠ (0x00070000 : Word).extractLsb' 16 8) ∧
      (h.holder ≠ 0 → ∀ w ∈ h.waiters, w.port = 0 → w.mode ≠ .queue) := by
  refine ⟨by decide, by decide, by decide, fun i h he _ => ?_⟩
  rw [held, entry_withEntry] at he
  split at he
  · cases he
    decide
  · cases he

theorem witness_WithdrawalLeavesList : (held [queueRecord 2, waitRecord 3]).Accepts 2 ∧
    ((held [queueRecord 2, waitRecord 3]).map 2).translate pollAt =
      .memory (heldEntry []).address (.claim { mode := .poll, lease := 300, limit := 0 }) ∧
    (held [queueRecord 2, waitRecord 3]).AddressesDistinct ∧ queueRecord 2 ∈ [queueRecord 2, waitRecord 3] ∧
    (queueRecord 2).port = 2 ∧ (queueRecord 2).mode = .queue :=
  ⟨by decide, by decide, distinct_withEntry _, by decide, rfl, rfl⟩

theorem witness_DeniedWriteRefused : base.Accepts 0 ∧ (0xE : Lanes) ≠ 0xF ∧
    (base.map 0).translate pollAt = .memory word (.claim { mode := .poll, lease := 300, limit := 0 }) ∧
    (base.map 0).translate viewAt = .memory word .view ∧
    (base.map 0).translate 0x80400 = .memory 0x200400 (.plain .readOnly none) := by decide

theorem witness_ViewAnsweredFromEntry : base.Accepts 0 ∧ (base.map 0).translate viewAt = .memory word .view ∧
    base.AddressesDistinct ∧ (∀ j, (base.entry j).address ≠ some word) := ⟨by decide, by decide, base_distinct, by decide⟩
theorem witness_ViewAnsweredFromEntry_entries :
    (withEntry (.fetching word 1 .none)).entry 0 = .fetching word 1 .none ∧ (held []).entry 0 = .held (heldEntry []) ∧
    (withEntry (.retiring (retiringEntry none))).entry 0 = .retiring (retiringEntry none) ∧
    (withEntry (.quarantined word 5 6)).entry 0 = .quarantined word 5 6 ∧ (held []).Accepts 0 ∧
    (held []).AddressesDistinct := ⟨by decide, by decide, by decide, by decide, by decide, distinct_withEntry _⟩

/-- The guard word is HELD by P1: its guarded write passes, and P2's is refused; reads are not guarded. -/
theorem witness_PlainAccessCheckedAndQueued : (held []).Accepts 1 ∧ (held []).Accepts 2 ∧
    ((held []).map 1).translate 0x4010 = .memory 0x20010 (.plain .readWrite (some { address := word, readsToo := false })) ∧
    (held []).AddressesDistinct ∧ ((held []).entry 0 = .held (heldEntry []) ∧ (heldEntry []).holder = 1) ∧
    ¬ ∃ i h, (held []).entry i = .held h ∧ h.address = word ∧ h.holder = 2 := by
  refine ⟨by decide, by decide, by decide, distinct_withEntry _, by decide, ?_⟩
  rintro ⟨i, h, he, -, hh⟩
  rw [held, entry_withEntry] at he
  split at he
  · cases he
    exact absurd hh (by decide)
  · cases he

/-- The first page that no record covers, and the addresses at both ends of a record of each kind. -/
theorem witness_TranslationFollowsSegment :
    (∀ g ∈ list, ¬ (g.basePage.toNat ≤ (0x5000 : LogAddr).toNat / 1024 ∧
      (0x5000 : LogAddr).toNat / 1024 < g.basePage.toNat + g.pageCount.toNat)) ∧
    PortMap.sound (.mapped list) = true ∧ segment 512 2 2048 0x24000000 0 0 ∈ list ∧
    (512 ≤ (0x80000 : LogAddr).toNat / 1024 ∧ (0x807FF : LogAddr).toNat / 1024 < 512 + 2) ∧
    list.map (fun g => (g.kindCode, g.attributeCode)) = [(1, 2), (1, 2), (2, 4), (2, 5), (3, 0), (2, 3), (4, 0), (1, 1)] ∧
    list.map (fun g => g.descriptor.getLsbD 24) = [false, true, false, false, false, false, false, false] := by decide

theorem witness_NoticeAccessesReadAndControl : base.Accepts 1 ∧ (base.map 1).translate 0xA2C7 = .notice ∧
    (base.notice 1).queue = [] ∧ (base.notice 1).overflow = false ∧
    ((base.setNotice 1 { queue := [], overflow := true, enable := false }).Accepts 1) ∧
    ((base.setNotice 1 { queue := [{ kind := .expired, other := 1, ticketBits := 5, address := word }], overflow := false
                         enable := false }).Accepts 1) := by decide

theorem witness_FencedAndUnmappedRequestsRefused :
    Instr.access (.plainRead 1 0x5000 0) = some (1, readRequest 0x5000 0) ∧
    ((base.setPort 1 { PortUnit.atReset with fence := true }).port 1).fence = true ∧
    (base.setPort 1 { PortUnit.atReset with fence := true }).quiesce = .running ∧ base.Accepts 1 ∧ base.map 1 = .mapped list ∧
    ∀ g ∈ list, ¬ (g.basePage.toNat ≤ (0x5000 : LogAddr).toNat / 1024 ∧
      (0x5000 : LogAddr).toNat / 1024 < g.basePage.toNat + g.pageCount.toNat) := by decide

theorem witness_RequestWaitsUntilTaken : Instr.access (.plainWrite 1 5 0 7) = some (1, writeRequest 5 0 7) ∧
    ((base.setPort 1 { PortUnit.atReset with resetAsserted := true }).port 1).resetAsserted = true ∧
    ((base.setPhase 1 (.stalled waiting)).port 1).resetAsserted = false ∧
    ((base.setPhase 1 (.stalled waiting)).port 1).phase ≠ .idle := by decide
/-- A notice read of P1 waits, and P1 has come to take requests since part reset was held. -/
theorem witness_RequestWaitsUntilTaken_ready : Instr.access (.noticeRead 1 0xA000 0) = some (1, readRequest 0xA000 0) ∧
    (base.setPresented 1 (some (readRequest 0xA000 0))).takes 1 = true ∧
    ({ base with partReset := true } : State).takes 1 = false ∧
    ((base.setPresented 1 (some (readRequest 0xA000 0))).port 1).presented = some (readRequest 0xA000 0) ∧
    ∀ q, q ≠ 1 → ((base.setPresented 1 (some (readRequest 0xA000 0))).port q).presented = none := by decide

/-- P1 alone is present. -/
def oneRequest (t : Transaction) : State := base.setPhase 1 (.queued t)

theorem next_oneRequest (t : Transaction) : (oneRequest t).Next (.port 1) := by
  refine ⟨rfl, ?_⟩
  rintro (q | _) h
  · by_cases hq : q = 1
    · subst hq; exact le_refl _
    · have h1 : ((oneRequest t).port q).phase = (base.port q).phase := by simp [oneRequest, hq]
      have h2 : ∀ r, (base.port r).phase = .idle := by decide
      simp [State.requests, h1, h2 q, Phase.queuedTransaction] at h
  · cases h

theorem witness_GrantFollowsRoundRobin : (oneRequest reading).MemoryFree ∧ (∃ q, (oneRequest reading).requests q = true) ∧
    ∀ q, base.requests q = false := by
  refine ⟨by decide, ⟨.port 1, by decide⟩, ?_⟩
  rintro (q | _)
  · revert q; decide
  · rfl

theorem witness_GrantToPortIssues : (oneRequest writing).MemoryFree ∧
    ((oneRequest writing).port 1).phase = .queued writing ∧ (oneRequest writing).Next (.port 1) ∧
    writing.purpose = .plainWrite ∧ writing.request.direction = .write 0xABCD ∧
    (∀ i, ((oneRequest writing).entry i).address ≠ some writing.physical) ∧
    (((oneRequest writing).setEntry 0 (.quarantined word 5 6)).entry 0).address = some writing.physical :=
  ⟨by decide, by decide, next_oneRequest _, rfl, rfl, by decide, by decide⟩

theorem witness_GrantIssuesWriteBack : ((withEntry (.retiring (retiringEntry none))).setQueue [0]).MemoryFree ∧
    ((withEntry (.retiring (retiringEntry none))).setQueue [0]).Next .writeBack ∧
    ((withEntry (.retiring (retiringEntry none))).setQueue [0]).entry 0 = .retiring (retiringEntry none) := by
  refine ⟨by decide, ⟨by decide, ?_⟩, by decide⟩
  rintro (q | _) h
  · revert q; decide
  · exact le_refl _

theorem witness_PortCompletionReturned :
    ((inMemory base 0 writing false).memPort.operation = some (.ofPort 0 (.plainWrite 0xF 0xABCD) word false) ∧
      ((inMemory base 0 writing false).port 0).phase = .inMemory writing ∧ (inMemory base 0 writing false).BankSound) ∧
    ((inMemory base 0 reading false).memPort.operation = some (.ofPort 0 .plainRead word false) ∧
      ((inMemory base 0 reading false).port 0).phase = .inMemory reading) ∧
    (inMemory base 0 viewing true).memPort.operation = some (.ofPort 0 .viewRead word true) ∧
    (inMemory base 0 writing true).memPort.operation = some (.ofPort 0 (.plainWrite 0xF 0xABCD) word true) := by decide

theorem witness_PortCompletionErrorFaults :
    ((inMemory base 0 viewing false).memPort.operation = some (.ofPort 0 .viewRead word false) ∧
      ((inMemory base 0 viewing false).port 0).phase = .inMemory viewing) ∧
    (inMemory base 0 writing true).memPort.operation = some (.ofPort 0 (.plainWrite 0xF 0xABCD) word true) := by decide

/-- A grant fetch of P1 in flight, its entry with a mark. -/
def fetch (mark : OrphanMark) (givenUp : Bool) : State := inMemory (withEntry (.fetching word 1 mark)) 1 fetching givenUp

theorem witness_GrantFetchCompletesByMark : ((fetch .none false).AddressesDistinct ∧ (fetch .fenced false).AddressesDistinct ∧
      (fetch .offline true).AddressesDistinct) ∧
    (∀ mark, (fetch mark false).memPort.operation = some (.ofPort 1 .grantFetch word false) ∧
      (fetch mark false).entry 0 = .fetching word 1 mark ∧ ((fetch mark false).port 1).phase = .inMemory fetching) ∧
    fetching.target = .claim { mode := .queue, lease := 500, limit := 0 } ∧
    (fetch .offline true).memPort.operation = some (.ofPort 1 .grantFetch word true) :=
  ⟨⟨distinct_withEntry _, distinct_withEntry _, distinct_withEntry _⟩,
    fun mark => by cases mark <;> exact ⟨by decide, by decide, by decide⟩, rfl, by decide⟩

/-- A write-back in flight, its entry as given. -/
def writeBack (e : Entry) : State := (withEntry e).setOperation (some (.ofWriteBack 0 word 0x000A0001))

theorem witness_WriteBackCompletes : (writeBack (.held (heldEntry []))).BankSound ∧
    (writeBack (.held (heldEntry []))).memPort.operation = some (.ofWriteBack 0 word 0x000A0001) ∧
    (writeBack (.held (heldEntry []))).entry 0 = .held (heldEntry []) ∧
    ∀ regranted, (writeBack (.retiring (retiringEntry (some { written := 10, regranted := regranted })))).entry 0 =
      .retiring (retiringEntry (some { written := 10, regranted := regranted })) :=
  ⟨by decide, by decide, by decide, by decide⟩

/-- P1's plain write to the word stands next while a write-back or a fetch of the word is in flight. -/
def race (e : Entry) (op : Operation) : State := ((oneRequest writing).setEntry 0 e).setOperation (some op)

/-- The entry: FETCHING with any mark, or HELD or RETIRING with a write-back in flight. -/
theorem witness_CompletionAndNextWriteEitherOrder (e : Entry) (he : e.address = some word) (op : Operation) :
    (race e op).AddressesDistinct ∧ (race e op).RefusalNext 1 writing ∧ (race e op).memPort.operation = some op ∧
    (race e op).entry 0 = e :=
  ⟨addressesDistinct_setEntry base_distinct fun j _ a _ => by simp [oneRequest, base_free, Entry.address],
    ⟨rfl, next_oneRequest writing, by simp [race, oneRequest], rfl, 0, by
      rw [show (race e op).entry 0 = e by simp [race]]; exact he⟩, rfl, by simp [race]⟩
theorem witness_CompletionAndNextWriteEitherOrder_entries (mark : OrphanMark) (b : InFlight) :
    (Entry.fetching word 2 mark).address = some word ∧
    ((Entry.held { heldEntry [] with writeBack := some b }).inFlight ≠ none ∧
      (Entry.held { heldEntry [] with writeBack := some b }).address = some word) ∧
    ((Entry.retiring (retiringEntry (some b))).inFlight ≠ none ∧
      (Entry.retiring (retiringEntry (some b))).address = some word) := ⟨rfl, ⟨nofun, rfl⟩, nofun, rfl⟩

/-- Which counts end where slot 0 alone has an entry. -/
theorem endsAtMost_ending {waiters : List Waiter} {n : Ticks} {lease wait : Bool} {p : Port}
    (hl : n = 1 → lease = true) (hw : ∀ w ∈ waiters, w.waitAt 1 = true → wait = true ∧ w.port = p) :
    (ending waiters n).EndsAtMost 0 lease p wait := by
  intro j h he
  have he : (withEntry (.held { heldEntry waiters with lease := some { length := 400, remaining := n } })).entry j = .held h := he
  rw [entry_withEntry] at he
  split at he
  · rename_i hj
    cases he
    refine ⟨fun hn => ⟨hl ?_, hj.symm⟩, fun w hm h1 => ⟨(hw w hm h1).1, hj.symm, (hw w hm h1).2⟩⟩
    simpa [HeldEntry.leaseAt] using hn
  · cases he

theorem witness_TbclkPeriodsMakeTicks : (ending [waitRecord 3] 300).TickNext ∧ (ending [waitRecord 3] 300).ListsSound ∧
    (ending [waitRecord 3] 300).EndsAtMost 0 false 0 false ∧ base.partReset = false ∧ base.divider ≠ 1 :=
  ⟨by decide, by decide +kernel, endsAtMost_ending (by decide) (by decide), by decide, by decide⟩

theorem witness_LeaseExpiryPassesClaimOn : (ending [queueRecord 2] 1).TickNext ∧ (ending [queueRecord 2] 1).ListsSound ∧
    (ending [queueRecord 2] 1).entry 0 = .held { heldEntry [queueRecord 2] with lease := some { length := 400, remaining := 1 } } ∧
    (ending [queueRecord 2] 1).EndsAtMost 0 true 0 false ∧ (ending [] 1).EndsAtMost 0 true 0 false ∧
    (¬ base.TickNext ∧ (held []).entry 0 = .held (heldEntry []) ∧ (heldEntry []).leaseAt 1 = false) :=
  ⟨by decide, by decide +kernel, by decide, endsAtMost_ending (by decide) (by decide), endsAtMost_ending (by decide) (by decide),
    by decide⟩

theorem witness_WaitExpiryTimesOut : (ending [waitEnding] 2).TickNext ∧ (ending [waitEnding] 2).ListsSound ∧
    (ending [waitEnding] 2).entry 0 = .held { heldEntry [waitEnding] with lease := some { length := 400, remaining := 2 } } ∧
    waitEnding.port = 3 ∧ waitEnding.waitAt 1 = true ∧ (ending [waitEnding] 2).EndsAtMost 0 false 3 true ∧
    (ending [waitEnding] 1).EndsAtMost 0 true 3 true ∧ ¬ base.TickNext :=
  ⟨by decide, by decide +kernel, by decide, rfl, by decide, endsAtMost_ending (by decide) (by decide),
    endsAtMost_ending (by decide) (by decide), by decide⟩

theorem witness_PortResetEndsHoldings : ((held [queueRecord 2]).port 1).resetAsserted = false ∧
    (∀ a q mark, (held [queueRecord 2]).entry 0 ≠ .fetching a q mark) := ⟨by decide, nofun⟩

theorem witness_PortResetEndsHoldings_transaction : ((fetch .none false).port 1).resetAsserted = false ∧
    (fetch .none false).AddressesDistinct ∧ ((fetch .none false).port 1).phase = .inMemory fetching ∧
    ((oneRequest reading).port 1).phase = .queued reading ∧ (oneRequest reading).AddressesDistinct ∧
    ((inMemory base 1 reading false).port 1).phase = .inMemory reading ∧ reading.purpose ≠ .grantFetch ∧
    (base.port 1).phase = .idle :=
  ⟨by decide, distinct_withEntry _, by decide, by decide, base_distinct, by decide, by decide, by decide⟩

theorem witness_ClaimsHandedOnInSlotOrder : ((held [queueRecord 2, waitRecord 3]).port 1).resetAsserted = false ∧
    (held [queueRecord 2, waitRecord 3]).LinkTakes := by decide

theorem witness_PartResetClearsPart : (inMemory base 0 writing false).BankSound ∧
    (inMemory base 0 writing false).memPort.operation = some (.ofPort 0 (.plainWrite 0xF 0xABCD) word false) ∧
    Operation.writes (.ofPort 0 (.plainWrite 0xF 0xABCD) word false) = some (word, 0xF, 0xABCD) ∧
    base.memPort.operation = none := by decide

theorem witness_ResetInputsReleasedAndHeld : ({ base with partReset := true } : State).partReset = true ∧
    (({ base with partReset := true } : State).port 1).resetAsserted = false ∧
    ({ base with partReset := true } : State).link.selection = none ∧
    ((base.setPort 1 { PortUnit.atReset with resetAsserted := true }).port 1).resetAsserted = true := by decide

theorem witness_SelectionShiftsResponseOut : base.partReset = false ∧ base.link.selection = none ∧
    ([0, 7] : List Byte).head? = some 0 ∧ 7 < 8 := by decide

theorem witness_SelectionIsItsEventsAndItsFrame : base.link.selection = none ∧ base.partReset = false ∧
    (List.replicate 7 true).length < 8 := by decide

/-- A length byte of 251; one of 2 with two bytes behind it; a good frame; and one of a length that STATUS does not take. -/
theorem witness_FrameChecksRejectInOrder : base.partReset = false ∧ (1 : Byte) ≠ 0 ∧ 250 < (251 : Byte).toNat ∧
    ([5, 6] : List Byte).length ≤ (2 : Byte).toNat ∧ ([1, 9, 0, 0xF6] : List Byte).sum = 0 ∧
    ([1, 9, 0, 0xF7] : List Byte).sum ≠ 0 ∧ ([1, 9, 1, 0, 0xF5] : List Byte).sum = 0 ∧ LengthWrong 1 [0] ∧
    ¬ LengthWrong 1 [] ∧ (250 : Byte).toNat ≤ 250 ∧ ({ base.link with process := some 3 } : Link).process ≠ none :=
  ⟨by decide, by decide, by decide, by decide, by decide, by decide, by decide, by simp [LengthWrong], by simp [LengthWrong],
    by decide, by decide⟩

theorem witness_GoodFrameIsItsCommand : base.LinkTakes ∧ Command.sendable (.unknown 14) = true ∧ Command.sendable (.fence 255 255) = true ∧
    Command.sendable (.mapLoad 1 17 (List.replicate 238 0)) = true := by decide +kernel

theorem witness_MapLoadRefused : base.LinkTakes ∧ list.length ≤ 17 ∧ 4 ≤ (4 : Byte).toNat ∧ (3 : Byte).toNat < 4 ∧
    8 < (list ++ [segment 900 1 900 0x28000000 0 0]).length ∧
    listFault [segment 900 1 4096 0x28000000 0 0] = some (.range, 0) := by decide

theorem witness_MapLoadAndMapOpenReplaceTheMap : base.LinkTakes ∧ PortMap.sound (.mapped list) = true ∧ list.length = 8 := by decide

theorem witness_RefusedCommandChangesNothing : base.LinkTakes ∧ 3 < (4 : Byte).toNat ∧ 1 < (2 : Byte).toNat ∧
    63 < (64 : Byte).toNat ∧ 8 < (9 : Byte).toNat ∧ 16 < (17 : Byte).toNat ∧ 0x3FFFFF < (0x400000 : BitVec 24).toNat ∧
    13 < (14 : Byte).toNat := by decide

theorem witness_StatusReportsThePart : (held []).LinkTakes := by decide

theorem witness_FenceEndsTransactionAndWaits : (fetch .none false).LinkTakes ∧ (fetch .none false).AddressesDistinct ∧
    ((fetch .none false).port 1).phase = .inMemory fetching ∧ fetching.purpose = .grantFetch ∧
    (oneRequest reading).LinkTakes ∧ (oneRequest reading).AddressesDistinct ∧ ((oneRequest reading).port 1).phase = .queued reading :=
  ⟨by decide, distinct_withEntry _, by decide, rfl, by decide, base_distinct, by decide⟩
/-- A STALLED port, and with revoke a holder whose claim passes to a waiter. -/
theorem witness_FenceEndsTransactionAndWaits_more : bothEnd.LinkTakes ∧ bothEnd.AddressesDistinct ∧
    (bothEnd.port 3).phase = .stalled waiting ∧ bothEnd.entry 0 = .held { heldEntry [waitEnding] with
      lease := some { length := 400, remaining := 1 } } ∧ (heldEntry [waitEnding]).holder = 1 ∧ (bothEnd.port 1).phase = .idle :=
  ⟨by decide, distinct_withEntry _, by decide, by decide, by decide, by decide⟩

theorem witness_QuiesceDrains : base.LinkTakes ∧ (∀ p, (base.port p).phase = .idle) ∧
    (oneRequest reading).LinkTakes ∧ (oneRequest reading).quiesce ≠ .quiesced ∧
    ((oneRequest reading).port 1).phase = .queued reading ∧
    ({ base with quiesce := .draining, link := { base.link with process := some 21 } } : State).link.process = some 21 ∧
    ({ base with quiesce := .quiesced } : State).LinkTakes := by decide
/-- The event that completes P0's write leaves every port drained. -/
theorem witness_QuiesceDrains_event : ((inMemory base 0 writing false).port 0).phase = .inMemory writing ∧
    ({ base with quiesce := .draining } : State).quiesce = .draining ∧
    ∀ p, (({ base with quiesce := .draining } : State).port p).phase = .idle := by decide

theorem witness_BankAndQuiesceStateChangeOnlyByTheirCommands : ∃ t, exec (.quiesce 1) base = .next t ∧ t.quiesce ≠ base.quiesce :=
  ⟨_, rfl, by decide⟩

theorem witness_ClaimListReportsInOrder : (held []).LinkTakes ∧ (8 : Byte).toNat ≤ 8 ∧ (held []).entry 0 ≠ .free := by decide

theorem witness_ClaimRevokeDecidedAtEntry : (held [queueRecord 2]).LinkTakes ∧ (held [queueRecord 2]).ListsSound ∧
    (held [queueRecord 2]).entry 0 = .held (heldEntry [queueRecord 2]) ∧ (heldEntry []).ticket = 8 ∧ (heldEntry []).ticket ≠ 7 ∧
    (∀ h, (held []).entry 1 ≠ .held h) := by
  refine ⟨by decide, by decide +kernel, by decide, rfl, by decide, fun h he => ?_⟩
  rw [held, entry_withEntry] at he
  cases he

theorem witness_ClaimClearFreesQuarantine : (withEntry (.quarantined word 5 6)).LinkTakes ∧
    (withEntry (.quarantined word 5 6)).entry 0 = .quarantined word 5 6 ∧
    (∀ a k w, (held []).entry 0 ≠ .quarantined a k w) ∧
    ∃ t, exec .arbiterGrant (withEntry (.quarantined word 5 6)) = .next t :=
  ⟨by decide, by decide, nofun, _, rfl⟩

/-- All sixteen records of a full log, one of three, and none. -/
theorem witness_LogReadTakesOldest (r : FaultRecord) : base.LinkTakes ∧ (16 : Byte).toNat ≤ 16 ∧
    (List.replicate 16 r = List.replicate 16 r ++ [] ∧ (List.replicate 16 r).length = (16 : Byte).toNat) ∧
    ([r, r, r] = [r] ++ [r, r] ∧ [r].length = (1 : Byte).toNat) ∧ base.log.records = [] ++ [] ∧
    ([] : List FaultRecord).length < (1 : Byte).toNat ∧ 16 < (17 : Byte).toNat :=
  ⟨by decide, by decide, ⟨by simp, rfl⟩, ⟨rfl, rfl⟩, rfl, by decide, by decide⟩

theorem witness_UnfenceResumeAndTimeSetActAlone : base.LinkTakes ∧ (1 : Ticks) ≠ 0 := by decide

theorem witness_WordFieldsAtMasterPorts : (3 : Nat) ≤ 3 := le_refl 3

theorem witness_LinkFormats : Command.sendable .status = true ∧ ([] : List Byte).length ≤ 250 ∧
    Entry.address (.held (heldEntry [waitRecord 0, queueRecord 2, waitRecord 3])) = some word ∧
    (heldEntry [waitRecord 0, queueRecord 2, waitRecord 3]).waiters.length ≤ 3 := by decide

theorem witness_ArrivalAtFullLogOrQueueDrops (n : Notice) (r : FaultRecord) :
    (List.replicate 15 r).length < 16 ∧ 16 ≤ (List.replicate 16 r).length ∧ (List.replicate 7 n).length < 8 ∧
      8 ≤ (List.replicate 8 n).length := by simp

/-- A state that satisfies every invariant, with a command in front of its queue: P1 holds the word, P2 and P3 wait, P3 is
stalled, slot 1 waits for its write-back, P0 is OFFLINE. -/
def sound : State :=
  { ((((held [queueRecord 2, waitRecord 3]).setEntry 1 (.retiring { retiringEntry none with address := 0x40011 })).setQueue [1]).setPhase
      3 (.stalled waiting)).setPort 0 { PortUnit.atReset with resetAsserted := true } with pending := [.arbiterGrant] }

theorem sound_distinct : sound.AddressesDistinct :=
  addressesDistinct_setEntry (distinct_withEntry _) fun j _ a ha => by
    rw [held, entry_withEntry]
    split
    · simp only [heldEntry, Entry.address, word, Option.some.injEq] at ha ⊢
      subst ha
      decide
    · simp [Entry.address]

theorem witness_EveryStepKeepsTableAndQueueSound : sound.AddressesDistinct ∧ sound.ListsSound ∧ sound.QueueSound ∧
    ∃ t, step sound = .next t := ⟨sound_distinct, by decide +kernel, by decide +kernel, _, rfl⟩

/-- A write-back in flight of a RETIRING entry, its completion in front of the queue. -/
def writePending : State :=
  { writeBack (.retiring (retiringEntry (some { written := 10, regranted := false }))) with pending := [.writeBackCompletion false] }

theorem witness_EveryStepKeepsTableAndQueueSound_inFlight : writePending.WriteBackSound ∧ ∃ t, step writePending = .next t := by
  refine ⟨⟨fun i a d h => ?_, fun i b h => ?_⟩, _, rfl⟩
  · cases h
    exact ⟨by decide, by decide, { written := 10, regranted := false }, by decide, by decide⟩
  · have he : writePending.entry i =
        if 0 = i then .retiring (retiringEntry (some { written := 10, regranted := false })) else .free := entry_withEntry _ i
    rw [he] at h ⊢
    split at h
    · cases h
      subst i
      exact ⟨word, 0x000A0001, rfl, fun _ => by decide⟩
    · cases h

theorem witness_EveryStepKeepsCountsAndStallsSound : sound.CountsSound ∧ sound.ListsSound ∧ sound.StallsSound ∧
    ∃ t, step sound = .next t := ⟨by decide +kernel, by decide +kernel, by decide +kernel, _, rfl⟩

theorem witness_EveryStepKeepsClosedPortsEmpty : sound.OfflineEmpty ∧ sound.FencedUnlisted ∧ sound.NothingWaits ∧
    ∃ t, step sound = .next t := ⟨by decide +kernel, by decide +kernel, by decide, _, rfl⟩

theorem witness_EveryStepKeepsBlockBounds : sound.BuffersBounded ∧ sound.MapsSound ∧ sound.DividerSound ∧ sound.DrainSound ∧
    sound.BankSound ∧ ∃ t, step sound = .next t := ⟨by decide, by decide +kernel, by decide, by decide, by decide, _, rfl⟩

/-- A grant fetch of P1 IN-MEMORY, its completion in front of the queue. -/
def fetchPending : State := { fetch .none false with pending := [.grantFetchCompletion false] }

theorem witness_EveryStepKeepsFetchesSound : (fetchPending.AddressesDistinct ∧ fetchPending.ListsSound ∧ fetchPending.StallsSound ∧
    fetchPending.FetchesSound) ∧ ∃ t, step fetchPending = .next t := by
  have phase : ∀ p, p ≠ 1 → (fetchPending.port p).phase = .idle := by decide
  have own : (fetchPending.port 1).phase = .inMemory fetching := by decide
  have entry : fetchPending.entry 0 = .fetching word 1 .none := by decide
  refine ⟨⟨distinct_withEntry _, by decide +kernel, by decide +kernel, ?_, ?_, ?_, ?_, ?_⟩, _, rfl⟩
  · intro p t ht
    by_cases hp : p = 1
    · subst hp
      rw [own] at ht
      cases ht
      rfl
    · rw [phase p hp] at ht
      cases ht
  · intro p t ht
    by_cases hp : p = 1
    · subst hp
      rw [own] at ht
      cases ht
    · rw [phase p hp] at ht
      cases ht
  · intro p t ht _
    by_cases hp : p = 1
    · subst hp
      rw [own] at ht
      cases ht
      exact ⟨0, .none, entry, by decide⟩
    · rw [phase p hp] at ht
      cases ht
  · intro p a g hop
    cases hop
    exact ⟨0, .none, entry, .inr ⟨fetching, own⟩⟩
  · intro i a p mark he
    have he : (withEntry (.fetching word 1 .none)).entry i = .fetching a p mark := he
    rw [entry_withEntry] at he
    split at he
    · cases he
      exact .inr ⟨false, rfl⟩
    · cases he

end Sys2Proof.Tests
end

section
/-! The statements on claiming and releasing: what a claim attempt by the holder does (R28), and what a full-word claim-word
write does that is refused STALE (R39, R41) or withdraws an enrolment (R40). -/

namespace Sys2Proof.Machine

/-! ### A reply at acceptance, after a change that leaves the port units alone -/

/-- An operation that keeps the port units, done on a taken request, leaves the reply the only change at the ports. -/
theorem reply_repliedAtOnce {s m : State} {p : Port} {r : Reply} (hm : m.ports = (s.setPresented p none).ports) :
    RepliedAtOnce s (m.reply p r) p r := by
  have port_eq : ∀ q, m.port q = (s.setPresented p none).port q := fun q => by simp only [State.port, hm]
  refine ⟨by simp [port_eq], fun q hq => ?_⟩
  rw [port_reply_other _ _ _ _ hq, port_eq, port_setPresented_other _ _ _ _ hq]

/-- A reply at acceptance leaves what decides whether a port takes requests as it was. -/
theorem RepliedAtOnce.takes_eq {s t : State} {p : Port} {r : Reply} (h : RepliedAtOnce s t p r)
    (hq : t.quiesce = s.quiesce) (hr : t.partReset = s.partReset) (q : Port) : t.takes q = s.takes q := by
  obtain ⟨own, others⟩ := h
  by_cases hqp : q = p
  · subst hqp
    simp [State.takes, own, hq, hr]
  · simp [State.takes, others q hqp, hq, hr]

/-- An event that only answers a request at acceptance ends no drain, since the part is RUNNING, and makes no port take
requests (R123, R164). -/
theorem RepliedAtOnce.endEvent_eq_self {s t : State} {p : Port} {r : Reply} (h : RepliedAtOnce s t p r) (ha : s.Accepts p)
    (hq : t.quiesce = s.quiesce) (hr : t.partReset = s.partReset) : t.endEvent s = t := by
  obtain ⟨-, -, -, running, -⟩ := ha
  have no_drain : t.quiesce ≠ .draining := by simp [hq, running]
  have none_ready : t.ready s = [] := ready_eq_nil.2 fun q taken => .inl (h.takes_eq hq hr q ▸ taken)
  rw [endEvent_eq (.inr (.inr (.inl no_drain))), takeReady_nil none_ready]

/-! ### Claim attempts by the holder (R28) -/

/-- The holder's attempt renews the entry's lease and is answered HELD (R28). -/
theorem claimRead_holder {s : State} {p : Port} {r : Request} {f : ClaimFields} {i : Slot} {h : HeldEntry}
    (hs : s.AddressesDistinct) (he : s.entry i = .held h) (hp : h.holder = p) :
    s.claimRead p r h.address f =
      (s.setEntry i (.held h.renew)).reply p (.data (replyWord .held p h.waiters.length h.ticket h.payload)) := by
  have found : s.lookup h.address = some i := lookup_eq_some hs (by rw [he]; rfl)
  simp [State.claimRead, found, he, hp]

/-! ### Full-word claim-word writes (R37 to R41) -/

theorem queueEnrolled_eq_true {l : List Waiter} {p : Port} :
    queueEnrolled l p = true ↔ ∃ w ∈ l, w.port = p ∧ w.mode = .queue := by
  have waits_iff : ∀ w : Waiter, w.waits = false ↔ w.mode = .queue := fun w => by
    unfold Waiter.waits
    cases w.mode <;> simp
  simp [queueEnrolled, waits_iff]

/-- A full-word claim-word write at an accepting port is decided by the claim unit, and the event then ends (R36, R37). -/
theorem exec_claimWordWrite_full {s : State} {p : Port} {a : LogAddr} {x : PhysAddr} {f : ClaimFields} {d : Word}
    (ha : s.Accepts p) (ht : (s.map p).translate a = .memory x (.claim f)) :
    exec (.claimWordWrite p a 0xF d) s =
      .next (((s.setPresented p none).claimWrite p (writeRequest a 0xF d) x d).endEvent s) := by
  rw [exec_access (p := p) (r := writeRequest a 0xF d) rfl]
  simp only [writeRequest_direction, State.presentWrite, present_claim_write ha ht]
  rfl

/-- A write is no release and no withdrawal where every HELD entry of the word has another holder or another ticket, and the
port is not enrolled on it in QUEUE mode: it is refused STALE (R39, R41). -/
theorem claimWrite_stale {s : State} {p : Port} {r : Request} {a : PhysAddr} {d : Word}
    (hn : ∀ i h, s.entry i = .held h → h.address = a →
      (h.holder = p → h.ticket ≠ ticketOf d) ∧ (h.holder ≠ p → queueEnrolled h.waiters p = false)) :
    s.claimWrite p r a d = s.refuse .stale p r (some a) (some (ticketOf d)) := by
  unfold State.claimWrite
  split
  case h_1 i h heq =>
    obtain ⟨j, found, hj⟩ := Option.map_eq_some_iff.1 heq
    obtain ⟨rfl, he⟩ := Prod.mk.inj hj
    have address : h.address = a := by simpa [he, Entry.address] using lookup_address found
    obtain ⟨other_ticket, not_queued⟩ := hn j h he address
    by_cases hp : h.holder = p
    · rw [if_pos hp, if_neg (other_ticket hp).symm]
    · rw [if_neg hp, not_queued hp, if_neg Bool.false_ne_true]
  case h_2 => rfl

/-- A write by a port enrolled in QUEUE mode removes its record and completes OK (R40). -/
theorem claimWrite_withdrawal {s : State} {p : Port} {r : Request} {d : Word} {i : Slot} {h : HeldEntry}
    (hs : s.AddressesDistinct) (he : s.entry i = .held h) (hp : h.holder ≠ p) (hq : queueEnrolled h.waiters p = true) :
    s.claimWrite p r h.address d =
      (s.setEntry i (.held { h with waiters := without h.waiters p })).reply p .written := by
  have found : s.lookup h.address = some i := lookup_eq_some hs (by rw [he]; rfl)
  simp [State.claimWrite, found, he, hp, hq]

/-! ### The statements -/

/-- Settles O5: in every claim mode the holder's attempt is the renewal of `claimRead_holder`. -/
theorem holderAttemptRenewsLease : Obligations.HolderAttemptRenewsLease := by
  intro s p a be f i h ha ht hs he hp
  have run : exec (.claimAttempt p a be) s = .next (((s.setPresented p none).setEntry i (.held h.renew)).reply p
      (.data (replyWord .held p h.waiters.length h.ticket h.payload))) := by
    rw [exec_access (p := p) (r := readRequest a be) rfl]
    simp only [readRequest_direction, present_claim_read ha ht]
    rw [claimRead_holder (s := s.setPresented p none) hs he hp]
  refine ⟨_, run, ?_, fun j hj => ?_, reply_repliedAtOnce rfl, rfl⟩
  · rw [reply_entry, entry_setEntry_same, HeldEntry.renew]
  · rw [reply_entry, entry_setEntry_other _ _ _ _ hj, setPresented_entry]

/-- Settles O11: the premise leaves `claimWrite` only its STALE refusal, and a refusal at acceptance ends the event. -/
theorem staleWriteRefused : Obligations.StaleWriteRefused := by
  intro s p a d x f ha ht hn
  have refused : (s.setPresented p none).claimWrite p (writeRequest a 0xF d) x d =
      (s.setPresented p none).refuse .stale p (writeRequest a 0xF d) (some x) (some (ticketOf d)) := by
    refine claimWrite_stale fun i h he hx => ?_
    obtain ⟨other_ticket, not_queued⟩ := hn i h he hx
    refine ⟨other_ticket, fun hp => Bool.eq_false_iff.2 fun hq => ?_⟩
    obtain ⟨w, hw, hwp, hwq⟩ := queueEnrolled_eq_true.1 hq
    exact not_queued hp w hw hwp hwq
  have replied : RepliedAtOnce s
      ((s.setPresented p none).refuse .stale p (writeRequest a 0xF d) (some x) (some (ticketOf d))) p .writeFault :=
    reply_repliedAtOnce rfl
  refine ⟨_, ?_, replied, rfl, rfl⟩
  rw [exec_claimWordWrite_full ha ht, refused, replied.endEvent_eq_self ha rfl rfl]

/-- Settles O12: the record found makes the port enrolled in QUEUE mode, so the write is the withdrawal of
`claimWrite_withdrawal`, whatever it carries. -/
theorem withdrawalLeavesList : Obligations.WithdrawalLeavesList := by
  intro s p a d f i h w ha ht hs he hp hw hwp hwq
  have withdrawn : (s.setPresented p none).claimWrite p (writeRequest a 0xF d) h.address d =
      ((s.setPresented p none).setEntry i (.held { h with waiters := without h.waiters p })).reply p .written :=
    claimWrite_withdrawal hs he hp (queueEnrolled_eq_true.2 ⟨w, hw, hwp, hwq⟩)
  have replied : RepliedAtOnce s
      (((s.setPresented p none).setEntry i (.held { h with waiters := without h.waiters p })).reply p .written) p .written :=
    reply_repliedAtOnce rfl
  refine ⟨_, ?_, ?_, fun j hj => ?_, replied, rfl⟩
  · rw [exec_claimWordWrite_full ha ht, withdrawn, replied.endEvent_eq_self ha rfl rfl]
  · rw [reply_entry, entry_setEntry_same, without]
  · rw [reply_entry, entry_setEntry_other _ _ _ _ hj, setPresented_entry]

end Sys2Proof.Machine
end

section
/-! The statement on the deadlock check (R50): when a port moves on and to whom, and what three moves find. -/

namespace Sys2Proof.Machine

/-! ### Where a port moves on to (R50, R54) -/

theorem waits_iff_mode_ne_queue {w : Waiter} : w.waits = true ↔ w.mode ≠ .queue := by
  unfold Waiter.waits
  cases w.mode <;> simp

theorem isStalled_iff {ph : Phase} : ph.isStalled = true ↔ ∃ t, ph = .stalled t := by
  cases ph <;> simp [Phase.isStalled]

/-- With sound stalls, the slot found for a port is the one whose HELD entry has the port's WAIT record on its list. -/
theorem waitSlot_eq_some_iff {s : State} (hs : s.StallsSound) {q : Port} {i : Slot} :
    s.waitSlot q = some i ↔ ∃ h, s.entry i = .held h ∧ ∃ w ∈ h.waiters, w.port = q ∧ w.mode ≠ .queue := by
  constructor
  · intro found
    have onList : ∃ w ∈ (s.entry i).waiters, w.port = q ∧ w.waits = true := by
      simpa using List.find?_some found
    obtain ⟨w, hw, hwq, waits⟩ := onList
    cases he : s.entry i with
    | held h =>
      rw [he] at hw
      exact ⟨h, rfl, w, hw, hwq, waits_iff_mode_ne_queue.1 waits⟩
    | _ => simp [he, Entry.waiters] at hw
  · rintro ⟨h, he, w, hw, hwq, not_queue⟩
    exact waitSlot_eq hs he hw hwq (waits_iff_mode_ne_queue.2 not_queue)

theorem waitsOn_eq_some_iff {s : State} {q r : Port} :
    s.waitsOn q = some r ↔
      (∃ t, (s.port q).phase = .stalled t) ∧ ∃ i h, s.waitSlot q = some i ∧ s.entry i = .held h ∧ h.holder = r := by
  rw [← isStalled_iff, State.waitsOn]
  split
  next stalled =>
    split
    next i found => cases he : s.entry i <;> simp [stalled, found, he]
    next none_found => simp [none_found]
  next not_stalled => simp [not_stalled]

/-! ### The walk, by the moves it has left -/

theorem walkFinds_zero {s : State} {p q : Port} : s.walkFinds p 0 q = false := rfl

/-- A move, with more to follow, reaches the attempting port by itself, or from the port moved to. -/
theorem walkFinds_succ_iff {s : State} {p q : Port} {n : Nat} :
    s.walkFinds p (n + 1) q = true ↔
      s.waitsOn q = some p ∨ ∃ r, s.waitsOn q = some r ∧ s.walkFinds p n r = true := by
  rw [State.walkFinds]
  cases s.waitsOn q <;> simp

/-! ### The statement -/

/-- Settles O9: the walk is unrolled move by move, and a port's one WAIT record decides where it moves on to. -/
theorem deadlockCheckFollowsStalls : Obligations.DeadlockCheckFollowsStalls := by
  refine ⟨fun s p q => ?_, fun s q r hs => ?_⟩
  · have last_move : ∀ u, s.walkFinds p 1 u = true ↔ s.waitsOn u = some p := fun u => by
      simp [walkFinds_succ_iff, walkFinds_zero]
    simp only [State.deadlock, walkFinds_succ_iff (n := 2), walkFinds_succ_iff (n := 1), last_move]
  · rw [waitsOn_eq_some_iff]
    refine and_congr_right fun _ => ⟨?_, ?_⟩
    · rintro ⟨i, h, found, he, holder⟩
      obtain ⟨h', he', record⟩ := (waitSlot_eq_some_iff hs).1 found
      obtain rfl : h' = h := Entry.held.inj (he'.symm.trans he)
      exact ⟨i, h', he, holder, record⟩
    · rintro ⟨i, h, he, holder, record⟩
      exact ⟨i, h, (waitSlot_eq_some_iff hs).2 ⟨h, he, record⟩, he, holder⟩

end Sys2Proof.Machine
end

section
/-! The statement on requests refused at acceptance without a physical address: at a FENCED port (R126), and where no segment
covers the logical address (R83). -/

namespace Sys2Proof.Machine

/-! ### An access refused at acceptance -/

/-- An event that only answers a request at acceptance ends with nothing more while the part is RUNNING, whether the port is
ONLINE or FENCED (R123, R164). -/
theorem RepliedAtOnce.endEvent_eq_self_of_running {s t : State} {p : Port} {r : Reply} (h : RepliedAtOnce s t p r)
    (running : s.quiesce = .running) (hq : t.quiesce = s.quiesce) (hr : t.partReset = s.partReset) : t.endEvent s = t := by
  have no_drain : t.quiesce ≠ .draining := by simp [hq, running]
  have none_ready : t.ready s = [] := ready_eq_nil.2 fun q taken => .inl (h.takes_eq hq hr q ▸ taken)
  rw [endEvent_eq (.inr (.inr (.inl no_drain))), takeReady_nil none_ready]

/-- Where the port refuses what is presented, the whole access command is that refusal: a read ends there, and the event of a
write ends with nothing more. -/
theorem exec_access_refused {c : Instr} {s : State} {p : Port} {r : Request} {kind : FaultKind} {x : Option PhysAddr}
    {k : Option Ticket} (hc : Instr.access c = some (p, r)) (running : s.quiesce = .running)
    (refused : s.present p r = (s.setPresented p none).refuse kind p r x k) :
    exec c s = .next ((s.setPresented p none).refuse kind p r x k) := by
  have replied : RepliedAtOnce s ((s.setPresented p none).refuse kind p r x k) p r.direction.fault :=
    reply_repliedAtOnce rfl
  rw [exec_access hc]
  cases r.direction with
  | read => rw [← refused]
  | write d => rw [State.presentWrite, refused, replied.endEvent_eq_self_of_running running rfl rfl]

/-! ### Addresses that no segment covers -/

theorem covers_iff {g : Segment} {page : Nat} :
    g.covers page = true ↔ g.basePage.toNat ≤ page ∧ page < g.basePage.toNat + g.pageCount.toNat := by
  simp [Segment.covers]

/-- A list without a segment over the address's page translates it to nothing (R83). -/
theorem translate_mapped_uncovered {l : List Segment} {a : LogAddr}
    (h : ∀ g ∈ l, ¬ (g.basePage.toNat ≤ a.toNat / 1024 ∧ a.toNat / 1024 < g.basePage.toNat + g.pageCount.toNat)) :
    (PortMap.mapped l).translate a = .unmapped := by
  have none_covers : l.find? (fun g => g.covers (a.toNat / 1024)) = none :=
    List.find?_eq_none.2 fun g hg covered => h g hg (covers_iff.1 covered)
  simp only [PortMap.translate, none_covers]

/-! ### The statement -/

/-- Settles O18: the fence, or the translation to nothing, makes acceptance a refusal, and the refusal is the whole command. -/
theorem fencedAndUnmappedRequestsRefused : Obligations.FencedAndUnmappedRequestsRefused := by
  refine ⟨fun s c p r hc no_reset online fenced running idle => ?_, fun s c p r l hc accepts map_eq uncovered => ?_⟩
  · have takes : s.takes p = true := by simp [State.takes, no_reset, online, running, idle]
    exact ⟨_, exec_access_refused hc running (present_fenced takes fenced), reply_repliedAtOnce rfl, rfl, rfl⟩
  · have unmapped : (s.map p).translate r.logical = .unmapped := by rw [map_eq, translate_mapped_uncovered uncovered]
    have refused := present_unmapped accepts unmapped
    obtain ⟨-, -, -, running, -⟩ := accepts
    exact ⟨_, exec_access_refused hc running refused, reply_repliedAtOnce rfl, rfl, rfl⟩

end Sys2Proof.Machine
end

section
/-! The statement on the step of the part itself, on an empty queue (R140, R146; log 12). -/

namespace Sys2Proof.Machine

/-- On an empty queue a step is what the block does of itself. -/
theorem step_empty {s : State} (h : s.pending = []) : step s = s.idle := by
  simp only [step, h]

theorem nextGrant_isSome_iff {s : State} : s.nextGrant.isSome = true ↔ ∃ q, s.requests q = true := by
  rw [Option.isSome_iff_ne_none, Ne, nextGrant_none]
  simp

/-- The block's test for a due grant is a free memory port with a requester present (R140, R146). -/
theorem grantDue_iff {s : State} : s.grantDue = true ↔ s.MemoryFree ∧ ∃ q, s.requests q = true := by
  rw [← nextGrant_isSome_iff]
  simp [State.grantDue]

/-- Settles O2: the step is the block's own, and it grants exactly where `grantDue` holds. -/
theorem emptyQueueStepIsDueOrIdle : Obligations.EmptyQueueStepIsDueOrIdle := by
  intro s empty
  rw [step_empty empty, State.idle]
  refine ⟨fun grantable => ?_, fun not_grantable => ?_⟩
  · rw [if_pos (grantDue_iff.2 grantable)]
  · rw [if_neg fun due => not_grantable (grantDue_iff.1 due)]

end Sys2Proof.Machine
end

section
/-! The statement on LOG-READ (R151): which records it takes and leaves, and the counts that it refuses. -/

namespace Sys2Proof.Machine

/-! ### Lists cut in two -/

/-- A count that the front part reaches, or that exceeds it with nothing behind, cuts a list between its two parts. -/
theorem take_drop_append {α : Type} {front back : List α} {n : Nat}
    (h : front.length = n ∨ (front.length < n ∧ back = [])) :
    (front ++ back).take n = front ∧ (front ++ back).drop n = back := by
  obtain rfl | ⟨short, rfl⟩ := h
  · exact ⟨List.take_left, List.drop_left⟩
  · rw [List.append_nil]
    exact ⟨List.take_of_length_le short.le, List.drop_of_length_le short.le⟩

/-! ### LOG-READ (R151) -/

/-- A LOG-READ frame that the link takes reads the log of an accepted command's state. -/
theorem exec_logRead {s : State} {seq maximum : Byte} (h : s.LinkTakes) :
    exec (.logRead seq maximum) s =
      .next ((s.setLink { s.link with slot := none, outcome := .accepted }).logRead seq maximum) :=
  congrArg Host.Outcome.next (takeFrame_takes h)

theorem logRead_refused {s : State} {seq maximum : Byte} (h : 16 < maximum.toNat) :
    s.logRead seq maximum = s.refused seq .field := if_pos h

/-- A LOG-READ with a count in range takes the part of the log that its count reaches and leaves what is behind it. -/
theorem logRead_takes {s : State} {seq maximum : Byte} {taken rest : List FaultRecord} (in_range : maximum.toNat ≤ 16)
    (split : s.log.records = taken ++ rest)
    (reach : taken.length = maximum.toNat ∨ (taken.length < maximum.toNat ∧ rest = [])) :
    s.logRead seq maximum = (s.setLog { records := rest, dropped := 0 }).done seq
      (countByte taken.length :: s.log.dropped :: taken.flatMap FaultRecord.bytes) := by
  obtain ⟨take_eq, drop_eq⟩ := take_drop_append reach
  rw [State.logRead, if_neg (not_lt.2 in_range), split, take_eq, drop_eq]

/-! ### The statement -/

/-- Settles O50: the link takes the frame, and the count decides between `logRead_takes` and `logRead_refused`. -/
theorem logReadTakesOldest : Obligations.LogReadTakesOldest := by
  refine ⟨fun s seq maximum taken rest takes in_range split reach => ?_, fun s seq maximum takes out_of_range => ?_⟩
  · exact ⟨_, (exec_logRead takes).trans (congrArg _ (logRead_takes in_range split reach)), rfl, rfl, rfl⟩
  · exact ⟨_, (exec_logRead takes).trans (congrArg _ (logRead_refused out_of_range)), answered_refused s seq .field, rfl⟩

end Sys2Proof.Machine
end

section
/-! What an event can do, said once. `Change` is one elementary change of the state within an event, with the conditions under
which the model makes it; `Outer` is a change of a part that no elementary change touches; `Ran` is what a whole command can do.
Every invariant is derived from these three. -/

namespace Sys2Proof.Machine

/-- A port unit that takes and translates a request: IDLE, not in reset, its fence flag clear. -/
abbrev State.Open (s : State) (p : Port) : Prop :=
  (s.port p).phase = .idle ∧ (s.port p).resetAsserted = false ∧ (s.port p).fence = false

/-- One elementary change within an event, each constructor with the condition under which the model makes the change. None
touches the maps, the time base, the command in process, the quiesce state, part reset or the bank. -/
inductive Change : State → State → Prop where
  | useFree (s) : Change s s.useFree
  | unpresent (s p) : Change s (s.setPresented p none)
  | reply (s p r) : Change s (s.reply p r)
  | logFault (s r) : Change s (s.logFault r)
  | notify (s p n) : Change s (s.notify p n)
  | setNotice (s p n) : (s.port p).resetAsserted = false → n.queue.length ≤ (s.notice p).queue.length →
      Change s (s.setNotice p n)
  | setLink (s l) : l.process = s.link.process → Change s (s.setLink l)
  | setLog (s l) : l.records.length ≤ s.log.records.length → Change s (s.setLog l)
  | setPointer (s q) : Change s (s.setPointer q)
  | clearFence (s p) : Change s (s.unfencePort p)
  | clearReset (s p) : Change s (s.deassertReset p)
  | queue (s p t) : s.Open p → t.purpose ≠ .grantFetch → Change s (s.setPhase p (.queued t))
  | allocate (s p r a f i) : s.Open p → s.lookup a = none → s.lowestFree = some i → Change s (s.allocate p r a f i)
  | renew (s i h) : s.entry i = .held h → Change s (s.setEntry i (.held h.renew))
  | enrol (s i h w) : s.entry i = .held h → s.Open w.port → h.holder ≠ w.port → enrolled h.waiters w.port = false →
      w.mode = .queue → Change s (s.setEntry i (.held (h.enrol w)))
  | stall (s p r a f i h) : s.entry i = .held h → s.Open p → h.holder ≠ p → enrolled h.waiters p = false →
      Change s ((s.setEntry i (.held (h.enrol { port := p, mode := waitMode f.limit, lease := f.lease }))).stall p r a f)
  | convert (s p r a f i h) : s.entry i = .held h → s.Open p → h.holder ≠ p → enrolled h.waiters p = true →
      Change s ((s.setEntry i (.held { h with waiters := convert h.waiters p f })).stall p r a f)
  | revive (s p f i r) : s.entry i = .retiring r → s.Open p → Change s (s.revive p f i r)
  | lose (s cause i h v) : s.entry i = .held { h with payload := v } → Change s (s.lose cause i h)
  | withdraw (s p i h) : s.entry i = .held h → (s.port p).phase = .idle →
      Change s (s.setEntry i (.held { h with waiters := without h.waiters p }))
  | timeOut (s p i h r) : s.entry i = .held h → (∃ w ∈ h.waiters, w.port = p ∧ w.waits = true) →
      Change s ((s.setEntry i (.held { h with waiters := without h.waiters p })).finish p r)
  | issue (s p t) : s.memPort.operation = none → (s.port p).phase = .queued t → Change s (s.issue p t)
  | refuseGrant (s p t r) : (s.port p).phase = .queued t → t.purpose = .plainWrite → Change s (s.finish p r)
  | grantWriteBack (s) : s.memPort.operation = none → Change s s.grantWriteBack
  | discard (s p work a g) : s.memPort.operation = some (.ofPort p work a g) → work ≠ .grantFetch →
      (g = false → ∀ t, (s.port p).phase ≠ .inMemory t) → Change s (s.setOperation none)
  | returned (s p work a t r) : s.memPort.operation = some (.ofPort p work a false) → work ≠ .grantFetch →
      (s.port p).phase = .inMemory t → Change s ((s.setOperation none).finish p r)
  | fetchData (s p a g w) : s.memPort.operation = some (.ofPort p .grantFetch a g) →
      Change s ((s.setOperation none).fetchData p a w)
  | fetchError (s p a g) : s.memPort.operation = some (.ofPort p .grantFetch a g) →
      Change s ((s.setOperation none).fetchError p a)
  | writeBackDone (s i a d) : s.memPort.operation = some (.ofWriteBack i a d) →
      Change s ((s.setOperation none).writeBackDone i)
  | writeBackError (s i a d) : s.memPort.operation = some (.ofWriteBack i a d) →
      Change s ((s.setOperation none).writeBackError i a (ticketOf d))
  | assertReset (s p) : (s.port p).resetAsserted = false → Change s (s.assertReset p)
  | fence (s p) : Change s (s.fencePort p false)

/-- Elementary changes one after another. -/
abbrev Changes : State → State → Prop := Relation.ReflTransGen Change

/-- What one change keeps, many changes keep. -/
theorem kept_of_each {r : State → State → Prop} {P : State → Prop} (each : ∀ s t, r s t → P s → P t) {s t : State}
    (h : Relation.ReflTransGen r s t) (hs : P s) : P t := by
  induction h with
  | refl => exact hs
  | tail _ last ih => exact each _ _ last ih

theorem Change.one {s t : State} (h : Change s t) : Changes s t := Relation.ReflTransGen.single h

/-- A change of a part that no elementary change touches, or of the commands that wait. -/
inductive Outer : State → State → Prop where
  | pending (s l) : Outer s { s with pending := l }
  | present (s p r) : (s.port p).resetAsserted = false → Outer s (s.setPresented p (some r))
  | setMap (s p m) : m.sound = true → Outer s (s.setMap p m)
  | setTime (s : State) (d n : Ticks) : (s.DividerSound → 1 ≤ n.toNat ∧ n.toNat ≤ d.toNat) →
      Outer s { s with divisor := d, divider := n }
  | setQuiesce (s q) : Outer s (s.setQuiesce q)
  | setLink (s l) : Outer s (s.setLink l)
  | setBank (s m) : (bankWf s.bank = true → bankWf m = true) → Outer s (s.setBank m)
  | release (s : State) : Outer s { s with partReset := false }
  | clearSlot (s i a k w) : s.entry i = .quarantined a k w → Outer s (s.freeSlot i)

/-- In the state `s` the command `c` brings a frame of the supervisor command `cmd` to the link, by its own row, by the row of a
code that names no command, by the bytes of a frame, or by those of a selection (log 15). -/
def Instr.Brings (c : Instr) (s : State) (cmd : Command) : Prop :=
  (∃ seq, c = Command.row seq cmd) ∨
  (∃ code seq payload, c = .unknownCommand code seq payload ∧ commandOfFrame code payload = some cmd) ∨
  (∃ bytes, (c = .frame bytes ∨ ∃ extra, c = .selection (.whole bytes extra)) ∧ bytes.head? = some (Command.code cmd)) ∨
  (c = .selection .release ∧ ∃ sel, s.link.selection = some sel ∧ (bytesOf sel.received).head? = some (Command.code cmd))

/-- The bank's completion of the operation in flight, whatever row names it (R143, log 7). -/
def Instr.completes : Instr → Bool
  | .plainAccessCompletion _ => true
  | .viewReadCompletion _ => true
  | .grantFetchCompletion _ => true
  | .writeBackCompletion _ => true
  | _ => false

/-- The bank `n` is the bank `m`, or is that with lanes of the word at `a` written. -/
def Rewritten (m n : List Host.Cell) (a : PhysAddr) : Prop := n = m ∨ ∃ be d, n = writeWord m a be d

/-- What a command `c` can do that begins in the state `s`. Where it may make a port IDLE, the event ends (R123, R164). -/
inductive Ran (c : Instr) (s : State) : State → Prop where
  | event {t} : Changes s t → Ran c s (t.endEvent s)
  | quiet {t} : Changes s t → (∀ q, t.takes q = true → s.takes q = true) →
      (s.quiesce = .draining → t.allDrained = true → s.allDrained = true) → Ran c s t
  | waits {p r} : (s.port p).resetAsserted = false → s.takes p = false → Ran c s (s.setPresented p (some r))
  | completed {op u m t} : Instr.completes c = true → s.memPort.operation = some op → Changes s u → Rewritten u.bank m op.address →
      Changes (u.setBank m) t → Ran c s (t.endEvent s)
  | tick first : Ran c s (((s.setDivider s.divisor).takeTick first).endEvent s)
  | period : s.divider ≠ 1 → Ran c s (s.setDivider (s.divider - 1))
  | partReset : c = .partReset → Ran c s s.assertPartReset
  | released : Ran c s (State.endEvent { s with partReset := false } s)
  | setMap {p m l} : m.sound = true → l.process = s.link.process → Ran c s ((s.setMap p m).setLink l)
  | setTime {d l} : d ≠ 0 → l.process = s.link.process → Ran c s (State.setLink { s with divisor := d, divider := d } l)
  | quiesced {l} : c = .quiesceDrainEnd ∨ Instr.Brings c s .quiesce → l.process = none → Ran c s ((s.setQuiesce .quiesced).setLink l)
  | draining {l} : Instr.Brings c s .quiesce → s.allDrained = false → l.process.isSome = true → Ran c s ((s.setQuiesce .draining).setLink l)
  | resumed {l} : Instr.Brings c s .resume → l.process = none → Ran c s (((s.setQuiesce .running).setLink l).endEvent s)
  | cleared {slot i a k w l} : Instr.Brings c s (.claimClear slot) → slotOfByte slot = some i → s.entry i = .quarantined a k w →
      l.process = s.link.process → (∃ seq, l.slot = some { status := .done, seq := seq, payload := [] }) →
      Ran c s ((s.freeSlot i).setLink l)

/-! ### The taking of a request -/

theorem refuse_changes (s : State) (kind : FaultKind) (p : Port) (r : Request) (x : Option PhysAddr) (k : Option Ticket) :
    Changes s (s.refuse kind p r x k) := (Change.logFault s _).one.tail (.reply _ p _)

theorem contend_changes (s : State) (p : Port) (h : HeldEntry) : Changes s (s.contend p h) := by
  unfold State.contend
  split
  · exact (Change.notify ..).one
  · exact .refl

/-- The CONTENDED notice may as well be sent after the port has stalled. -/
theorem contend_stall (s : State) (p q : Port) (h : HeldEntry) (r : Request) (a : PhysAddr) (f : ClaimFields) :
    (s.contend q h).stall p r a f = (s.stall p r a f).contend q h := by
  unfold State.contend
  split
  · have reset : ((s.stall p r a f).port h.holder).resetAsserted = (s.port h.holder).resetAsserted := by
      rw [State.stall, port_setPhase]
      split <;> rfl
    unfold State.notify
    rw [reset]
    split <;> rfl
  · rfl

theorem attemptHeld_changes {s : State} {p : Port} {i : Slot} {h : HeldEntry} (hp : s.Open p) (he : s.entry i = .held h)
    (hh : h.holder ≠ p) (r : Request) (a : PhysAddr) (f : ClaimFields) : Changes s (s.attemptHeld p r a f i h) := by
  unfold State.attemptHeld
  split
  · split
    · exact (Change.reply ..).one
    · split
      next listed => exact (Change.convert s p r a f i h he hp hh listed).one
      next unlisted =>
        rw [contend_stall]
        exact (Change.stall s p r a f i h he hp hh (by simpa using unlisted)).one.trans (contend_changes ..)
  · split
    · exact (Change.reply ..).one
    next unlisted =>
      exact ((Change.enrol s i h { port := p, mode := .queue, lease := f.lease } he hp hh (by simpa using unlisted)
        rfl).one.trans (contend_changes ..)).tail (.reply ..)
  · split <;> exact (Change.reply ..).one

theorem claimRead_changes {s : State} {p : Port} (hp : s.Open p) (r : Request) (a : PhysAddr) (f : ClaimFields) :
    Changes s (s.claimRead p r a f) := by
  unfold State.claimRead
  split
  next absent =>
    split
    next i lowest => exact (Change.allocate s p r a f i hp absent lowest).one
    · exact (Change.reply ..).one
  next i found =>
    split
    · exact .refl
    · exact (Change.reply ..).one
    next h he =>
      split
      · exact (Change.renew s i h he).one.tail (.reply ..)
      next hh => exact attemptHeld_changes hp he hh r a f
    next e he => exact (Change.revive s p f i e he hp).one
    · exact (Change.reply ..).one

theorem claimWrite_changes {s : State} {p : Port} (hp : s.Open p) (r : Request) (a : PhysAddr) (d : Word) :
    Changes s (s.claimWrite p r a d) := by
  unfold State.claimWrite
  split
  next i h heq =>
    obtain ⟨j, -, hj⟩ := Option.map_eq_some_iff.1 heq
    obtain ⟨rfl, he⟩ := Prod.mk.inj hj
    split
    · split
      · exact (Change.lose s .release j { h with payload := payloadOf d } h.payload he).one.tail (.reply ..)
      · exact refuse_changes ..
    · split
      · exact (Change.withdraw s p j h he hp.1).one.tail (.reply ..)
      · exact refuse_changes ..
  · exact refuse_changes ..

theorem plain_changes {s : State} {p : Port} (hp : s.Open p) (r : Request) (a : PhysAddr) (acc : PlainAccess)
    (g : Option Guard) : Changes s (s.plain p r a acc g) := by
  have not_fetch : plainPurpose r.direction ≠ .grantFetch := by cases r.direction <;> simp [plainPurpose]
  unfold State.plain
  split
  · exact refuse_changes ..
  · split
    · exact refuse_changes ..
    · exact (Change.queue s p _ hp not_fetch).one

theorem view_changes {s : State} {p : Port} (hp : s.Open p) (r : Request) (a : PhysAddr) : Changes s (s.view p r a) := by
  unfold State.view
  split
  · exact (Change.reply ..).one
  · exact (Change.queue s p _ hp (by simp)).one

theorem noticePop_changes {s : State} {p : Port} (hp : s.Open p) : Changes s (s.noticePop p) := by
  unfold State.noticePop
  split
  next n rest queue => exact (Change.setNotice s p _ hp.2.1 (by simp [queue])).one.tail (.reply ..)
  · split
    · exact (Change.setNotice s p { s.notice p with overflow := false } hp.2.1 le_rfl).one.tail (.reply ..)
    · exact (Change.reply ..).one

theorem control_length (u : NoticeUnit) (be : Lanes) (d : Word) : (u.control be d).queue.length ≤ u.queue.length := by
  unfold NoticeUnit.control
  split
  · dsimp only
    split <;> simp
  · exact le_rfl

theorem routeRequest_changes {s : State} {p : Port} (hp : s.Open p) (r : Request) : Changes s (s.routeRequest p r) := by
  unfold State.routeRequest State.claimSegmentWrite
  split
  · exact refuse_changes ..
  · split
    · exact noticePop_changes hp
    · exact (Change.setNotice s p _ hp.2.1 (control_length ..)).one.tail (.reply ..)
  · exact plain_changes hp ..
  · split
    · exact claimRead_changes hp ..
    · split
      · exact claimWrite_changes hp ..
      · exact refuse_changes ..
  · split
    · exact view_changes hp ..
    · exact refuse_changes ..

theorem takes_iff {s : State} {p : Port} : s.takes p = true ↔
    s.partReset = false ∧ (s.port p).resetAsserted = false ∧ s.quiesce = .running ∧ (s.port p).phase = .idle := by
  simp only [State.takes, Bool.and_eq_true, Bool.not_eq_true', decide_eq_true_eq]
  tauto

theorem take_changes {s : State} {p : Port} (h : s.takes p = true) (r : Request) : Changes s (s.take p r) := by
  obtain ⟨-, online, -, idle⟩ := takes_iff.1 h
  refine Relation.ReflTransGen.head (.unpresent s p) ?_
  simp only [State.take]
  split
  · exact refuse_changes ..
  next fence => exact routeRequest_changes ⟨by simp [idle], by simp [online], by simpa using fence⟩ r

/-- What each change keeps, and the taking of requests consists of changes: waiting requests are taken by changes. -/
theorem takeReady_changes (s before : State) : Changes s (s.takeReady before) := by
  unfold State.takeReady
  generalize 4 = n
  induction n generalizing s with
  | zero => exact .refl
  | succ n ih =>
    rw [State.takeReadyWithin]
    split
    next p r found =>
      have ready : s.takes p = true := (mem_ready.1 (List.mem_of_getElem? found)).1
      have chosen : Changes s (s.chosen (s.ready before).length) := by
        unfold State.chosen
        split
        · exact .refl
        · exact (Change.useFree s).one
      have still : (s.chosen (s.ready before).length).takes p = true := by
        unfold State.chosen
        split <;> exact ready
      exact (chosen.trans (take_changes still r)).trans (ih _)
    · exact .refl

/-! ### Grants and completions -/

theorem grant_changes {s : State} (hf : s.memPort.operation = none) (q : Requester) : Changes s (s.grant q) := by
  unfold State.grant
  split
  next p =>
    split
    next t ht =>
      have queued : (s.port p).phase = .queued t := by
        cases hp : (s.port p).phase <;> simp_all [Phase.queuedTransaction]
      refine Relation.ReflTransGen.head (b := s.setPointer (.port p)) (.setPointer ..) ?_
      unfold State.grantPort
      split
      next refused =>
        simp only [Bool.and_eq_true, decide_eq_true_eq] at refused
        exact (Change.logFault ..).one.tail (.refuseGrant _ p t _ queued refused.1)
      · exact (Change.issue (s.setPointer (.port p)) p t hf queued).one
    · exact .refl
  · exact (Change.setPointer s _).one.tail (.grantWriteBack _ hf)

theorem arbitrate_changes (s : State) : Changes s s.arbitrate := by
  unfold State.arbitrate
  split
  · exact .refl
  next free =>
    simp only [Bool.or_eq_true, not_or, Bool.not_eq_true, Option.isSome_eq_false_iff, Option.isNone_iff_eq_none] at free
    split
    · exact grant_changes free.2 _
    · exact .refl

/-- A grant that refuses a plain write is made by elementary changes that leave the operation in flight as it was. -/
theorem arbitrate_refusal_changes {s : State} {q : Port} {t : Transaction}
    (h : (s.setOperation none).RefusalNext q t) :
    ∃ u, Changes s u ∧ u.memPort.operation = s.memPort.operation ∧ (s.setOperation none).arbitrate = u.setOperation none := by
  have next := h.2.1
  obtain ⟨hr, -, hp, ht, ha⟩ := h
  refine ⟨((s.setPointer (.port q)).logFault (transactionFault .claimword q t)).finish q t.request.direction.fault, ?_, rfl, ?_⟩
  · exact ((Change.setPointer s _).one.tail (.logFault ..)).tail (.refuseGrant _ q t _ hp ht)
  · have occupied : ((s.setOperation none).setPointer (.port q)).occupied t.physical = true := occupied_iff.2 ha
    rw [arbitrate_next ⟨hr, rfl⟩ next]
    simp only [State.grant, hp, Phase.queuedTransaction, State.grantPort, ht, occupied, decide_true, Bool.and_self, if_true]
    rfl
/-- The grants made before a completion at an entry, made while the operation still stands. -/
theorem queriesFirst_changes (fuel : Nat) : ∀ s : State, ∃ u, Changes s u ∧ u.memPort.operation = s.memPort.operation ∧
    State.queriesFirst fuel (s.setOperation none) = u.setOperation none := by
  induction fuel with
  | zero => exact fun s => ⟨s, .refl, rfl, rfl⟩
  | succ fuel ih =>
    intro s
    unfold State.queriesFirst
    split
    next refuses =>
      split
      · exact ⟨s.useFree, (Change.useFree s).one, rfl, rfl⟩
      · obtain ⟨q, t, hw⟩ := (refusesNext_iff rfl).1 refuses
        obtain ⟨u, granted, op, eq⟩ := arbitrate_refusal_changes (s := s.useFree) hw
        obtain ⟨v, more, op', eq'⟩ := ih u
        refine ⟨v, (Relation.ReflTransGen.head (.useFree s) granted).trans more, op'.trans op, ?_⟩
        rw [← eq', ← eq]
        rfl
    · exact ⟨s, .refl, rfl, rfl⟩

theorem raceAtEntry_changes (s : State) (op : Operation) : ∃ u, Changes s u ∧ u.memPort.operation = s.memPort.operation ∧
    (s.setOperation none).raceAtEntry op = u.setOperation none := by
  unfold State.raceAtEntry
  split
  · exact queriesFirst_changes 4 s
  · exact ⟨s, .refl, rfl, rfl⟩

/-- The bank's part of a completion rewrites the word of the operation, and may use a free value. -/
theorem perform_changes (s : State) (op : Operation) (e : Bool) : ∃ m u, Rewritten s.bank m op.address ∧
    Changes (s.setBank m) u ∧ u.memPort.operation = s.memPort.operation ∧ u.ports = s.ports ∧
    (s.setOperation none).perform op e = u.setOperation none := by
  rcases hw : op.writes with _ | ⟨a, be, d⟩
  · exact ⟨s.bank, s, .inl rfl, .refl, rfl, rfl, perform_read hw⟩
  · have address : a = op.address := by
      cases op with
      | ofPort p work x g => cases work <;> simp_all [Operation.writes, Operation.address]
      | ofWriteBack i x w => simp_all [Operation.writes, Operation.address]
    subst address
    cases e with
    | false => exact ⟨_, s.setBank _, .inr ⟨be, d, rfl⟩, .refl, rfl, rfl, by simp only [State.perform, hw]; rfl⟩
    | true =>
      exact ⟨_, (s.setBank _).useFree, .inr ⟨allLanes, _, rfl⟩, (Change.useFree _).one, rfl, rfl, by
        simp only [State.perform, hw]; rfl⟩

theorem portDone_changes {s : State} {p : Port} {work : PortWork} {a : PhysAddr} (hop : s.memPort.operation =
    some (.ofPort p work a false)) (hw : work ≠ .grantFetch) (e : Bool) (r : Reply) :
    Changes s ((s.setOperation none).portDone p e r) := by
  unfold State.portDone
  rcases hm : (s.port p).phase.memoryTransaction with _ | t
  · have idle : ∀ t, (s.port p).phase ≠ .inMemory t := fun t ht => by simp [ht, Phase.memoryTransaction] at hm
    simp only [setOperation_port, hm]
    exact (Change.discard s p work a false hop hw fun _ => idle).one
  · have inMemory : (s.port p).phase = .inMemory t := by
      cases hp : (s.port p).phase <;> simp_all [Phase.memoryTransaction]
    simp only [setOperation_port, hm]
    split
    · exact (Change.logFault s _).one.tail (.returned _ p work a t _ hop hw inMemory)
    · exact (Change.returned s p work a t r hop hw inMemory).one

theorem routePort_changes {s : State} {p : Port} {work : PortWork} {a : PhysAddr} {g : Bool} (hop : s.memPort.operation =
    some (.ofPort p work a g)) (e : Bool) (w : Word) : Changes s ((s.setOperation none).routePort p work a g e w) := by
  have given_up : work ≠ .grantFetch → g = true → Changes s (s.setOperation none) := fun hw hg =>
    (Change.discard s p work a g hop hw (by simp [hg])).one
  cases work with
  | grantFetch =>
    simp only [State.routePort]
    split
    · exact (Change.fetchError s p a g hop).one
    · exact (Change.fetchData s p a g w hop).one
  | _ =>
    simp only [State.routePort]
    split
    next hg => exact given_up nofun hg
    next hg =>
      obtain rfl : g = false := by simpa using hg
      exact portDone_changes hop nofun e _

/-- A completion: the grants that come first, the bank's part, and what the block that waits for it does. -/
theorem complete_ran {c : Instr} (hc : Instr.completes c = true) (s : State) (e : Bool) : Ran c s ((s.complete e).endEvent s) := by
  rcases hop : s.memPort.operation with _ | op
  · rw [complete_none hop]
    exact .event .refl
  · obtain ⟨u, before, hu, race⟩ := raceAtEntry_changes s op
    obtain ⟨m, v, rewritten, free, hv, -, performed⟩ := perform_changes u op e
    have operation : v.memPort.operation = some op := hv.trans (hu.trans hop)
    refine .completed hc hop before rewritten (free.trans ?_)
    cases op with
    | ofPort p work a g =>
      rw [complete_port hop, race, performed]
      exact routePort_changes operation e _
    | ofWriteBack i a d =>
      rw [complete_writeBack hop, race, performed]
      split
      · exact (Change.writeBackError v i a d operation).one
      · exact (Change.writeBackDone v i a d operation).one

/-! ### Losses and expiries -/

theorem loseAt_changes (cause : LossCause) (p : Port) (s : State) (i : Slot) : Changes s (State.loseAt cause p s i) := by
  unfold State.loseAt
  split
  next h he =>
    split
    · exact (Change.lose s cause i h h.payload he).one
    · exact .refl
  · exact .refl

theorem loseAll_changes (s : State) (cause : LossCause) (p : Port) : Changes s (s.loseAll cause p) :=
  forSlots_induct (Changes s) _ (fun _ i h => h.trans (loseAt_changes cause p _ i)) s .refl

theorem fencePort_changes (s : State) (p : Port) (revoke : Bool) : Changes s (s.fencePort p revoke) := by
  cases revoke with
  | false => exact (Change.fence s p).one
  | true => exact (Change.fence s p).one.trans (loseAll_changes _ .fenceRevoke p)

theorem waits_of_waitAt {w : Waiter} {n : Ticks} (h : w.waitAt n = true) : w.waits = true := by
  unfold Waiter.waitAt at h
  unfold Waiter.waits
  cases hm : w.mode <;> simp_all

theorem expire_changes (s : State) (e : Expiry) : Changes s (s.expire e) := by
  cases e with
  | lease i =>
    simp only [State.expire, State.expireLease]
    split
    next h he =>
      split
      · exact (Change.lose s .expiry i h h.payload he).one
      · exact .refl
    · exact .refl
  | wait i p =>
    simp only [State.expire, State.expireWait]
    split
    next h he =>
      split
      next expired =>
        obtain ⟨w, hw, hwp⟩ := List.any_eq_true.1 expired
        simp only [Bool.and_eq_true, decide_eq_true_eq] at hwp
        exact (Change.timeOut s p i h _ he ⟨w, hw, hwp.1, waits_of_waitAt hwp.2⟩).one
      · exact .refl
    · exact .refl

/-! ### What the changes leave alone -/

/-- What every change within an event leaves as it was: the maps, the time base, the quiesce state, part reset, the bank, the
commands that wait and the command in process. -/
structure Within (s t : State) : Prop where
  maps : t.maps = s.maps
  divisor : t.divisor = s.divisor
  divider : t.divider = s.divider
  process : t.link.process = s.link.process
  quiesce : t.quiesce = s.quiesce
  partReset : t.partReset = s.partReset
  bank : t.bank = s.bank

theorem Within.refl (s : State) : Within s s := ⟨rfl, rfl, rfl, rfl, rfl, rfl, rfl⟩

theorem Within.trans {s t u : State} (h : Within s t) (g : Within t u) : Within s u :=
  ⟨g.maps.trans h.maps, g.divisor.trans h.divisor, g.divider.trans h.divider, g.process.trans h.process,
    g.quiesce.trans h.quiesce, g.partReset.trans h.partReset, g.bank.trans h.bank⟩

theorem setPort_within (s : State) (p : Port) (u : PortUnit) : Within s (s.setPort p u) :=
  ⟨rfl, rfl, rfl, rfl, rfl, rfl, rfl⟩

theorem setOperation_within (s : State) (op : Option Operation) : Within s (s.setOperation op) :=
  ⟨rfl, rfl, rfl, rfl, rfl, rfl, rfl⟩

theorem notify_within (s : State) (p : Port) (n : Notice) : Within s (s.notify p n) := by
  constructor <;> simp

theorem lose_within (s : State) (cause : LossCause) (i : Slot) (h : HeldEntry) : Within s (s.lose cause i h) := by
  constructor <;> simp

theorem forSlots_within {f : State → Slot → State} (hf : ∀ s i, Within s (f s i)) (s : State) : Within s (s.forSlots f) :=
  forSlots_induct (Within s) f (fun t i h => h.trans (hf t i)) s (.refl s)

theorem removeWaiters_within (s : State) (p : Port) : Within s (s.removeWaiters p) :=
  forSlots_within (fun t i => by unfold State.removeAt; split <;> exact ⟨rfl, rfl, rfl, rfl, rfl, rfl, rfl⟩) s

theorem loseAll_within (s : State) (cause : LossCause) (p : Port) : Within s (s.loseAll cause p) :=
  forSlots_within (fun t i => by
    unfold State.loseAt
    split
    · split
      · exact lose_within ..
      · exact .refl t
    · exact .refl t) s

theorem withdraw_within (s : State) (t : Transaction) : Within s (s.withdraw t) := by
  unfold State.withdraw
  split
  · split <;> exact ⟨rfl, rfl, rfl, rfl, rfl, rfl, rfl⟩
  · exact .refl s

theorem orphan_within (s : State) (a : PhysAddr) (f : OrphanMark → OrphanMark) : Within s (s.orphan a f) := by
  unfold State.orphan
  split <;> exact ⟨rfl, rfl, rfl, rfl, rfl, rfl, rfl⟩

theorem endByReset_within (s : State) (p : Port) : Within s (s.endByReset p) := by
  unfold State.endByReset
  split
  · exact .refl s
  · exact (withdraw_within s _).trans ⟨rfl, rfl, rfl, rfl, rfl, rfl, rfl⟩
  · split
    · exact (orphan_within s _ _).trans ⟨rfl, rfl, rfl, rfl, rfl, rfl, rfl⟩
    · exact ⟨rfl, rfl, rfl, rfl, rfl, rfl, rfl⟩
  · exact ⟨rfl, rfl, rfl, rfl, rfl, rfl, rfl⟩

theorem endByFence_within (s : State) (p : Port) : Within s (s.endByFence p) := by
  unfold State.endByFence
  split
  · exact .refl s
  · exact (withdraw_within s _).trans ⟨rfl, rfl, rfl, rfl, rfl, rfl, rfl⟩
  · split
    · exact orphan_within s _ _
    · exact .refl s
  · exact ⟨rfl, rfl, rfl, rfl, rfl, rfl, rfl⟩

/-- The port unit of `p` as the assertion of its reset input finds it: the input asserted, its request gone (R123). -/
def State.shut (s : State) (p : Port) : State := s.setPort p { s.port p with resetAsserted := true, presented := none }

/-- The port unit of `p` with its fence flag set (R131). -/
def State.raiseFence (s : State) (p : Port) : State := s.setPort p { s.port p with fence := true }

theorem assertReset_eq {s : State} {p : Port} (h : (s.port p).resetAsserted = false) : s.assertReset p =
    ((((s.shut p).endByReset p).setNotice p NoticeUnit.empty).removeWaiters p).loseAll .offline p := by
  simp only [State.assertReset, h, Bool.false_eq_true, if_false, State.shut]

theorem fencePort_eq (s : State) (p : Port) : s.fencePort p false = ((s.raiseFence p).endByFence p).removeWaiters p := rfl

theorem assertReset_within (s : State) (p : Port) : Within s (s.assertReset p) := by
  cases reset : (s.port p).resetAsserted with
  | true =>
    rw [State.assertReset, if_pos reset]
    exact .refl s
  | false =>
    rw [assertReset_eq reset]
    refine Within.trans ?_ (loseAll_within ..)
    refine Within.trans ?_ (removeWaiters_within ..)
    exact ((setPort_within s p _).trans (endByReset_within ..)).trans ⟨rfl, rfl, rfl, rfl, rfl, rfl, rfl⟩

theorem fence_within (s : State) (p : Port) : Within s (s.fencePort p false) := by
  rw [fencePort_eq]
  exact ((setPort_within s p _).trans (endByFence_within ..)).trans (removeWaiters_within ..)

theorem fetchData_within (s : State) (p : Port) (a : PhysAddr) (w : Word) : Within s (s.fetchData p a w) := by
  unfold State.fetchData
  split <;> exact ⟨rfl, rfl, rfl, rfl, rfl, rfl, rfl⟩

theorem fetchError_within (s : State) (p : Port) (a : PhysAddr) : Within s (s.fetchError p a) := by
  unfold State.fetchError
  split <;> exact ⟨rfl, rfl, rfl, rfl, rfl, rfl, rfl⟩

theorem writeBackDone_within (s : State) (i : Slot) : Within s (s.writeBackDone i) := by
  unfold State.writeBackDone
  split
  · split
    · split <;> exact ⟨rfl, rfl, rfl, rfl, rfl, rfl, rfl⟩
    · exact .refl s
  · exact ⟨rfl, rfl, rfl, rfl, rfl, rfl, rfl⟩
  · exact .refl s

theorem writeBackError_within (s : State) (i : Slot) (a : PhysAddr) (k : Ticket) : Within s (s.writeBackError i a k) := by
  simp only [State.writeBackError]
  split
  · split
    · split <;> exact ⟨rfl, rfl, rfl, rfl, rfl, rfl, rfl⟩
    · exact ⟨rfl, rfl, rfl, rfl, rfl, rfl, rfl⟩
  · exact ⟨rfl, rfl, rfl, rfl, rfl, rfl, rfl⟩
  · exact ⟨rfl, rfl, rfl, rfl, rfl, rfl, rfl⟩

theorem grantWriteBack_within (s : State) : Within s s.grantWriteBack := by
  unfold State.grantWriteBack
  split
  · exact .refl s
  · dsimp only
    split <;> exact ⟨rfl, rfl, rfl, rfl, rfl, rfl, rfl⟩

theorem revive_within (s : State) (p : Port) (f : ClaimFields) (i : Slot) (r : RetiringEntry) :
    Within s (s.revive p f i r) := by
  simp only [State.revive]
  split <;> exact ⟨rfl, rfl, rfl, rfl, rfl, rfl, rfl⟩

theorem Change.within {s t : State} (h : Change s t) : Within s t := by
  cases h with
  | notify => exact notify_within ..
  | setLink l hl => exact ⟨rfl, rfl, rfl, hl, rfl, rfl, rfl⟩
  | revive => exact revive_within ..
  | lose => exact lose_within ..
  | grantWriteBack => exact grantWriteBack_within s
  | fetchData p a g w => exact (setOperation_within s none).trans (fetchData_within ..)
  | fetchError p a g => exact (setOperation_within s none).trans (fetchError_within ..)
  | writeBackDone i a d => exact (setOperation_within s none).trans (writeBackDone_within ..)
  | writeBackError i a d => exact (setOperation_within s none).trans (writeBackError_within ..)
  | assertReset p => exact assertReset_within s p
  | fence p => exact fence_within s p
  | _ => exact ⟨rfl, rfl, rfl, rfl, rfl, rfl, rfl⟩

theorem Changes.within {s t : State} (h : Changes s t) : Within s t := by
  induction h with
  | refl => exact .refl s
  | tail _ last ih => exact ih.trans last.within

end Sys2Proof.Machine
end

section
/-! What each command can do: every effect that `exec` gives a command is one of the cases of `Ran`. -/

namespace Sys2Proof.Machine

/-! ### The end of an event sees only the ports, the quiesce state and part reset of the state it began in -/

/-- Only the link differs, and the command in process is the same. -/
structure LinkOnly (s t : State) : Prop where
  frame : { t with link := s.link } = s
  process : t.link.process = s.link.process

theorem LinkOnly.eq_setLink {s t : State} (h : LinkOnly s t) : t = s.setLink t.link :=
  (congrArg (fun u : State => u.setLink t.link) h.frame :)

theorem LinkOnly.trans {s t u : State} (h : LinkOnly s t) (g : LinkOnly t u) : LinkOnly s u :=
  ⟨(congrArg (fun v : State => { v with link := s.link }) g.frame).trans h.frame, g.process.trans h.process⟩

theorem LinkOnly.changes {s t : State} (h : LinkOnly s t) : Changes s t := by
  rw [h.eq_setLink]
  exact (Change.setLink s _ h.process).one

theorem endEvent_setLink (s t : State) (l : Link) : t.endEvent (s.setLink l) = t.endEvent s := by
  have ready : ∀ u : State, u.ready (s.setLink l) = u.ready s := fun u => rfl
  have within : ∀ n (u : State), State.takeReadyWithin (s.setLink l) n u = State.takeReadyWithin s n u := by
    intro n
    induction n with
    | zero => exact fun _ => rfl
    | succ n ih =>
      intro u
      simp only [State.takeReadyWithin, ready, ih]
  have takeReady : ∀ u : State, u.takeReady (s.setLink l) = u.takeReady s := within 4
  simp only [State.endEvent, takeReady]
  rfl

theorem LinkOnly.endEvent {s s' : State} (h : LinkOnly s s') (t : State) : t.endEvent s' = t.endEvent s := by
  rw [h.eq_setLink, endEvent_setLink]

/-! ### Events that make no port IDLE -/

theorem takes_congr {s t : State} {p : Port} (hp : (t.port p).phase = (s.port p).phase)
    (hr : (t.port p).resetAsserted = (s.port p).resetAsserted) (h : Within s t) : t.takes p = s.takes p := by
  simp [State.takes, hp, hr, h.quiesce, h.partReset]

theorem allDrained_congr {s t : State} (h : ∀ p, (t.port p).phase = (s.port p).phase) : t.allDrained = s.allDrained := by
  simp [State.allDrained, h]

/-- An event that leaves every phase and reset input as it was ends with nothing more (R123, R164). -/
theorem endEvent_phases {s t : State} (h : Within s t) (hp : ∀ p, (t.port p).phase = (s.port p).phase)
    (hr : ∀ p, (t.port p).resetAsserted = (s.port p).resetAsserted) : t.endEvent s = t := by
  rw [endEvent_eq, takeReady_nil (ready_eq_nil.2 fun p ht => .inl (takes_congr (hp p) (hr p) h ▸ ht))]
  rw [allDrained_congr hp]
  cases s.allDrained <;> simp

theorem ran_of_ports {c : Instr} {s t : State} (h : Changes s t) (hp : t.ports = s.ports) : Ran c s t := by
  have port : ∀ q, t.port q = s.port q := fun q => by simp [State.port, hp]
  refine .quiet h (fun q hq => ?_) fun _ ha => ?_
  · rwa [takes_congr (by rw [port]) (by rw [port]) h.within] at hq
  · rw [← allDrained_congr (s := s) (t := t) fun q => by rw [port]]
    exact ha

theorem ran_of_linkOnly {c : Instr} {s t : State} (h : LinkOnly s t) : Ran c s t :=
  ran_of_ports h.changes (congrArg State.ports h.frame :)

/-! ### Accesses -/

theorem contend_ports (s : State) (p : Port) (h : HeldEntry) : (s.contend p h).ports = s.ports := by
  unfold State.contend
  split <;> simp

theorem contend_port (s : State) (p : Port) (h : HeldEntry) (q : Port) : (s.contend p h).port q = s.port q := by
  simp [State.port, contend_ports]

/-- A claim attempt leaves the units of the other ports alone. -/
theorem claimRead_port_other {s : State} {p q : Port} (hq : q ≠ p) (r : Request) (a : PhysAddr) (f : ClaimFields) :
    (s.claimRead p r a f).port q = s.port q := by
  unfold State.claimRead
  split
  · split
    · simp [State.allocate, hq]
    · simp [hq]
  · split
    · rfl
    · simp [hq]
    · split
      · simp [hq]
      · unfold State.attemptHeld
        split
        · split
          · simp [hq]
          · split <;> simp [State.stall, hq, contend_port]
        · split <;> simp [hq, contend_port]
        · split <;> simp [hq]
    · simp only [State.revive]
      split <;> simp [hq]
    · simp [hq]

theorem refuse_port_other {s : State} {p q : Port} (hq : q ≠ p) (kind : FaultKind) (r : Request) (x : Option PhysAddr)
    (k : Option Ticket) : (s.refuse kind p r x k).port q = s.port q := by
  simp [State.refuse, hq]

/-- The taking of a read leaves the units of the other ports alone. -/
theorem take_read_port_other {s : State} {p q : Port} (hq : q ≠ p) {r : Request} (hr : r.direction = .read) :
    (s.take p r).port q = s.port q := by
  have unpresented : (s.setPresented p none).port q = s.port q := port_setPresented_other s p q none hq
  have refused : ∀ kind x k, ((s.setPresented p none).refuse kind p r x k).port q = s.port q := fun kind x k =>
    (refuse_port_other hq kind r x k).trans unpresented
  simp only [State.take]
  split
  · exact refused ..
  · unfold State.routeRequest
    split
    · exact refused ..
    · simp only [hr, State.noticePop]
      split
      · simp [hq]
      · split <;> simp [hq]
    · unfold State.plain
      split
      · exact refused ..
      · split
        · exact refused ..
        · simp [hq]
    · simp only [hr]
      exact (claimRead_port_other hq ..).trans unpresented
    · simp only [hr, State.view]
      split <;> simp [hq]

theorem take_read_ran {c : Instr} {s : State} {p : Port} {r : Request} (ht : s.takes p = true) (hr : r.direction = .read) :
    Ran c s (s.take p r) := by
  have changes := take_changes ht r
  refine .quiet changes (fun q hq => ?_) fun draining => ?_
  · by_cases hqp : q = p
    · exact hqp ▸ ht
    · have other := take_read_port_other hqp hr (s := s)
      rwa [takes_congr (by rw [other]) (by rw [other]) changes.within] at hq
  · rw [(takes_iff.1 ht).2.2.1] at draining
    cases draining

theorem present_ran {c : Instr} (s : State) (p : Port) (r : Request) :
    Ran c s (match r.direction with
      | .read => s.present p r
      | .write _ => s.presentWrite p r) := by
  by_cases reset : (s.port p).resetAsserted = true
  · simp only [State.presentWrite, present_offline reset, endEvent_self]
    split <;> exact ran_of_ports .refl rfl
  · by_cases taken : s.takes p = true
    · have present : s.present p r = s.take p r := by simp [State.present, reset, taken]
      split
      next hr => exact present ▸ take_read_ran taken hr
      · exact .event (present ▸ take_changes taken r)
    · simp only [Bool.not_eq_true] at reset taken
      have ended : (s.setPresented p (some r)).endEvent s = s.setPresented p (some r) :=
        endEvent_phases ⟨rfl, rfl, rfl, rfl, rfl, rfl, rfl⟩ (fun q => by by_cases h : q = p <;> simp [h])
          fun q => by by_cases h : q = p <;> simp [h]
      simp only [State.presentWrite, present_waits reset taken, ended]
      split <;> exact .waits reset taken

/-! ### Time -/

theorem tbclk_ran {c : Instr} (s : State) : Ran c s s.tbclk := by
  unfold State.tbclk
  split
  · exact .tick none
  next no_tick =>
    split
    · exact ran_of_ports .refl rfl
    next running =>
      simp only [Bool.not_eq_true] at running
      exact .period (by simpa [State.ticks, running] using no_tick)

/-! ### Supervisor commands -/

/-- What the length check of a frame gives of a MAP-LOAD: its records are of fourteen bytes, as many as its count (R160). -/
def Command.fits : Command → Prop
  | .mapLoad _ count records => records.length = 14 * count.toNat
  | _ => True

theorem mapLoad_row {seq port count : Byte} {records : List Byte} {cmd : Command}
    (h : commandOfFrame 0x02 (port :: count :: records) = some cmd) :
    Instr.mapLoad seq port count records = Command.row seq cmd := by
  change (if _ then some (Command.mapLoad port count records) else none) = some cmd at h
  split at h
  · cases h
    rfl
  · cases h

theorem commandOfFrame_fits {code : Byte} {payload : List Byte} {cmd : Command}
    (h : commandOfFrame code payload = some cmd) : Command.fits cmd := by
  unfold commandOfFrame at h
  repeat' split at h
  all_goals cases h
  all_goals trivial

theorem segmentsOf_length : ∀ (n : Nat) (l : List Byte), l.length = 14 * n → (segmentsOf l).length = n
  | 0, l, h => by
    obtain rfl : l = [] := List.eq_nil_of_length_eq_zero h
    rfl
  | n + 1, l, h => by
    rcases l with _ | ⟨b0, _ | ⟨b1, _ | ⟨b2, _ | ⟨b3, _ | ⟨b4, _ | ⟨b5, _ | ⟨b6, _ | ⟨b7, _ | ⟨b8, _ | ⟨b9, _ | ⟨b10, _ |
      ⟨b11, _ | ⟨b12, _ | ⟨b13, rest⟩⟩⟩⟩⟩⟩⟩⟩⟩⟩⟩⟩⟩⟩ <;> simp only [List.length_nil, List.length_cons] at h
    all_goals first | omega | skip
    simp only [segmentsOf, List.length_cons, segmentsOf_length n rest (by omega)]

theorem mapLoadFault_sound {port count : Byte} {records : List Byte} (h : mapLoadFault port count records = none)
    (hl : records.length = 14 * count.toNat) : (PortMap.mapped (segmentsOf records)).sound = true := by
  unfold mapLoadFault at h
  split at h
  · cases h
  · split at h
    · cases h
    next count_ok =>
      have length : (segmentsOf records).length ≤ 8 := by
        rw [segmentsOf_length count.toNat records hl]
        omega
      simp only [Option.map_eq_none_iff] at h
      simp [PortMap.sound, h, length]

theorem respond_linkOnly {s s' : State} (h : LinkOnly s s') (seq : Byte) (st : ResponseStatus) (payload : List Byte) :
    LinkOnly s (s'.respond seq st payload) := h.trans ⟨rfl, rfl⟩

theorem onPort_ran {c : Instr} {s s' : State} (h : LinkOnly s s') {seq port : Byte} {f : Port → State}
    (hf : ∀ p, Ran c s (f p)) : Ran c s (s'.onPort seq port f) := by
  unfold State.onPort
  split
  · exact hf _
  · exact ran_of_linkOnly (respond_linkOnly h ..)

/-- An event of a command that the link carries out, and the response in the slot. -/
theorem command_event {c : Instr} {s s' t : State} (h : LinkOnly s s') (ht : Changes s' t) (seq : Byte) (payload : List Byte) :
    Ran c s ((t.done seq payload).endEvent s') := by
  rw [h.endEvent]
  exact .event ((h.changes.trans ht).tail (.setLink _ _ rfl))

theorem unfence_ran {c : Instr} {s s' : State} (h : LinkOnly s s') (p : Port) (seq : Byte) :
    Ran c s ((s'.unfencePort p).done seq []) := by
  have changes : Changes s' ((s'.unfencePort p).done seq []) := (Change.clearFence s' p).one.tail (.setLink _ _ rfl)
  have ended : ((s'.unfencePort p).done seq []).endEvent s' = (s'.unfencePort p).done seq [] :=
    endEvent_phases changes.within
      (fun q => by
        show ((s'.unfencePort p).port q).phase = (s'.port q).phase
        by_cases hq : q = p <;> simp [State.unfencePort, hq])
      (fun q => by
        show ((s'.unfencePort p).port q).resetAsserted = (s'.port q).resetAsserted
        by_cases hq : q = p <;> simp [State.unfencePort, hq])
  rw [← ended]
  exact command_event h (Change.clearFence s' p).one seq []

theorem carryOut_ran {c : Instr} {s s' : State} (h : LinkOnly s s') (idle : s.link.process = none) (seq : Byte) {cmd : Command}
    (fits : Command.fits cmd) (brings : Instr.Brings c s cmd) : Ran c s (s'.carryOut seq cmd) := by
  have idle' : s'.link.process = none := h.process.trans idle
  have answered : ∀ {t : State}, Changes s' t → t.ports = s'.ports → ∀ payload, Ran c s (t.done seq payload) :=
    fun ht hp payload => ran_of_ports ((h.changes.trans ht).tail (.setLink _ _ rfl))
      (hp.trans (congrArg State.ports h.frame :))
  have refused : ∀ st payload, Ran c s (s'.respond seq st payload) := fun st payload =>
    ran_of_linkOnly (respond_linkOnly h seq st payload)
  have eq := h.eq_setLink
  cases cmd with
  | status => exact answered .refl rfl _
  | mapLoad port count records =>
    simp only [State.carryOut, State.mapLoad]
    split
    next p _ none_fails =>
      rw [eq]
      exact .setMap (mapLoadFault_sound none_fails fits) h.process
    · exact refused ..
    · exact refused ..
  | mapRead port => exact onPort_ran h fun p => answered .refl rfl _
  | mapOpen port =>
    refine onPort_ran h fun p => ?_
    rw [eq]
    exact .setMap (m := .openMode) rfl h.process
  | fence port revoke =>
    simp only [State.carryOut, State.fenceCommand]
    split
    · split
      · exact refused ..
      · exact command_event h (fencePort_changes ..) seq []
    · exact refused ..
  | unfence port => exact onPort_ran h fun p => unfence_ran h p seq
  | quiesce =>
    simp only [State.carryOut, State.quiesceCommand]
    split
    · rw [eq]
      exact .quiesced (l := { s'.link with slot := _ }) (.inr brings) idle'
    next not_drained =>
      simp only [Bool.or_eq_true, not_or, Bool.not_eq_true] at not_drained
      rw [eq]
      rw [eq] at not_drained
      exact .draining (l := { s'.link with process := some seq }) brings not_drained.2 rfl
  | resume =>
    simp only [State.carryOut, State.resumeCommand]
    rw [h.endEvent, eq]
    exact .resumed (l := { s'.link with slot := _ }) brings idle'
  | claimList first maximum =>
    simp only [State.carryOut, State.claimList]
    split
    · split
      · exact refused ..
      · exact answered .refl rfl _
    · exact refused ..
  | claimRevoke slot addr ticket =>
    simp only [State.carryOut, State.claimRevoke]
    split
    next i _ =>
      split
      · exact refused ..
      · split
        next held he =>
          split
          · exact refused ..
          · split
            · exact refused ..
            · exact command_event h (Change.lose s' .revoke i held held.payload he).one seq _
        · exact refused ..
    · exact refused ..
  | claimClear slot =>
    simp only [State.carryOut, State.claimClear]
    split
    next i named =>
      split
      next a k w he =>
        rw [eq] at he ⊢
        exact .cleared (l := { s'.link with slot := _ }) brings named he h.process ⟨seq, rfl⟩
      · exact refused ..
    · exact refused ..
  | logRead maximum =>
    simp only [State.carryOut, State.logRead]
    split
    · exact refused ..
    · exact answered (Change.setLog s' { records := s'.log.records.drop maximum.toNat, dropped := 0 } (by simp)).one rfl _
  | timeSet divisor =>
    simp only [State.carryOut, State.timeSet]
    split
    · exact refused ..
    next not_zero =>
      rw [eq]
      exact .setTime not_zero (l := { s'.link with slot := _ }) h.process
  | unknown code => exact refused ..

theorem takeFrame_ran {c : Instr} {s s' : State} (h : LinkOnly s s') (seq : Byte) {cmd : Option Command}
    (fits : ∀ x, cmd = some x → Command.fits x) (brings : ∀ x, cmd = some x → Instr.Brings c s x) : Ran c s (s'.takeFrame seq cmd) := by
  unfold State.takeFrame
  split
  · exact ran_of_linkOnly h
  · split
    · exact ran_of_linkOnly (h.trans ⟨rfl, rfl⟩)
    next idle =>
      simp only [Bool.not_eq_true, Option.isSome_eq_false_iff, Option.isNone_iff_eq_none] at idle
      split
      · exact ran_of_linkOnly (h.trans ⟨rfl, rfl⟩)
      next x =>
        have accepted : LinkOnly s (s'.setLink { s'.link with slot := none, outcome := .accepted }) := h.trans ⟨rfl, rfl⟩
        exact carryOut_ran accepted (h.process ▸ idle) seq (fits x rfl) (brings x rfl)

theorem row_ran (s : State) (seq : Byte) {cmd : Command} (fits : Command.fits cmd) :
    Ran (Command.row seq cmd) s (s.takeFrame seq (some cmd)) :=
  takeFrame_ran (s' := s) ⟨rfl, rfl⟩ seq (fun _ hx => Option.some.inj hx ▸ fits)
    fun _ hx => Option.some.inj hx ▸ .inl ⟨seq, rfl⟩

theorem commandOfFrame_code {code : Byte} {payload : List Byte} {cmd : Command}
    (h : commandOfFrame code payload = some cmd) : Command.code cmd = code := by
  unfold commandOfFrame at h
  split at h
  case h_14 => cases h; rfl
  all_goals
    rename_i named
    rw [← BitVec.toNat_inj, named]
    repeat' split at h
    all_goals cases h
    all_goals rfl

theorem receive_ran {c : Instr} {s s' : State} (h : LinkOnly s s') (bytes : List Byte)
    (brings : ∀ cmd, Command.code cmd ≠ 0 → bytes.head? = some (Command.code cmd) → Instr.Brings c s cmd) : Ran c s (s'.receive bytes) := by
  have rejected : ∀ o, Ran c s (s'.setOutcome o) := fun o => ran_of_linkOnly (h.trans ⟨rfl, rfl⟩)
  unfold State.receive
  split
  · exact ran_of_linkOnly h
  · split
    · exact ran_of_linkOnly h
    next code _ =>
      split
      · exact ran_of_linkOnly h
      next not_zero =>
        split
        · split
          · exact rejected _
          · split
            · exact rejected _
            · exact takeFrame_ran h _ (fun _ => commandOfFrame_fits) fun cmd hc =>
                have named := commandOfFrame_code hc
                brings cmd (named ▸ not_zero) (congrArg some named.symm)
        · exact rejected _

/-! ### Selections -/

theorem endSelection_ran {c : Instr} {s s' : State} (h : LinkOnly s s') (sel : Selection)
    (brings : ∀ cmd, Command.code cmd ≠ 0 → (bytesOf sel.received).head? = some (Command.code cmd) → Instr.Brings c s cmd) :
    Ran c s (s'.endSelection sel) := by
  have closed : LinkOnly s (s'.setSelection none s'.link.sdo) := h.trans ⟨rfl, rfl⟩
  simp only [State.endSelection]
  split
  · exact ran_of_linkOnly closed
  · refine receive_ran (closed.trans ?_) _ brings
    unfold State.settleOutput
    split <;> exact ⟨rfl, rfl⟩

/-- Zero bits that are clocked make no byte that is a code. -/
theorem head_bytesOf_whole {bytes : List Byte} {extra : Nat} {code : Byte} (named : code ≠ 0)
    (h : (bytesOf (bitsOf bytes ++ List.replicate extra false)).head? = some code) : bytes.head? = some code := by
  cases bytes with
  | cons b rest =>
    rw [← h, bitsOf, List.flatMap_cons, List.append_assoc]
    exact congrArg some (byteOfBits_byteBits b).symm
  | nil =>
    rcases Nat.lt_or_ge extra 8 with short | long
    · rw [bytesOf_bitsOf [] _ (by simpa using short)] at h
      exact h
    · obtain ⟨further, rfl⟩ := Nat.exists_eq_add_of_le' long
      exact absurd (Option.some.inj h).symm named

theorem selection_ran (s : State) (e : SelectionEvent) {t : State}
    (h : execSelection e s = .next t) : Ran (.selection e) s t := by
  have same : LinkOnly s s := ⟨rfl, rfl⟩
  cases e with
  | select =>
    cases h
    unfold State.select
    split <;> exact ran_of_linkOnly ⟨rfl, rfl⟩
  | clock sdi =>
    cases h
    unfold State.clockBit
    split
    · split <;> exact ran_of_linkOnly ⟨rfl, rfl⟩
    · exact ran_of_linkOnly same
  | release =>
    cases h
    unfold State.release
    split
    next sel selected =>
      exact endSelection_ran same _ fun cmd _ head => .inr (.inr (.inr ⟨rfl, sel, selected, head⟩))
    · exact ran_of_linkOnly same
  | whole bytes extra =>
    cases h
    unfold State.wholeSelection
    split
    · exact ran_of_linkOnly same
    · refine endSelection_ran (s := s) ?_ _ fun cmd named head => .inr (.inr (.inl ⟨bytes, .inr ⟨extra, rfl⟩, ?_⟩))
      · exact ⟨rfl, rfl⟩
      · exact head_bytesOf_whole named head

/-! ### Every command -/

theorem drainEnd_ran (s : State) : Ran .quiesceDrainEnd s s.drainEnd := by
  rcases drainEnd_cases s with ⟨seq, -, -, -, eq⟩ | ⟨-, eq⟩
  · rw [eq]
    exact .quiesced (l := { s.link with process := none, slot := _ }) (.inl rfl) rfl
  · rw [eq]
    exact ran_of_ports .refl rfl

/-- What a command does is one of the cases of `Ran`. -/
theorem exec_ran {c : Instr} {s t : State} (h : exec c s = .next t) : Ran c s t := by
  have present : ∀ {p r}, Instr.access c = some (p, r) → Ran c s t := fun {p r} hc => by
    rw [exec_access hc] at h
    exact Host.Outcome.next.inj h ▸ present_ran s p r
  cases c with
  | claimAttempt | claimWordWrite | viewRead | viewWrite | plainRead | plainWrite | noticeRead | noticeControlWrite =>
    exact present rfl
  | arbiterGrant => exact Host.Outcome.next.inj h ▸ .event (arbitrate_changes s)
  | plainAccessCompletion e | viewReadCompletion e | grantFetchCompletion e | writeBackCompletion e =>
    exact Host.Outcome.next.inj h ▸ complete_ran rfl s e
  | tick | tbclkPeriod => exact Host.Outcome.next.inj h ▸ tbclk_ran s
  | leaseExpiry i =>
    rw [← Host.Outcome.next.inj h]
    split
    · exact .tick (some (.lease i))
    · exact ran_of_ports .refl rfl
  | waitExpiry p =>
    rw [← Host.Outcome.next.inj h]
    split
    next i _ =>
      split
      · exact .tick (some (.wait i p))
      · exact ran_of_ports .refl rfl
    · exact ran_of_ports .refl rfl
  | portResetAsserted p =>
    rw [← Host.Outcome.next.inj h]
    by_cases reset : (s.port p).resetAsserted = true
    · rw [State.assertReset, if_pos reset]
      exact .event .refl
    · exact .event (Change.assertReset s p (by simpa using reset)).one
  | portResetDeasserted p => exact Host.Outcome.next.inj h ▸ .event (Change.clearReset s p).one
  | partReset => exact Host.Outcome.next.inj h ▸ .partReset rfl
  | partResetReleased => exact Host.Outcome.next.inj h ▸ .released
  | selection e => exact selection_ran s e h
  | frame bytes =>
    rw [← Host.Outcome.next.inj h]
    exact receive_ran (s' := s) ⟨rfl, rfl⟩ bytes fun _ _ head => .inr (.inr (.inl ⟨bytes, .inl rfl, head⟩))
  | quiesceDrainEnd => exact Host.Outcome.next.inj h ▸ drainEnd_ran s
  | mapLoad seq port count records =>
    rw [← Host.Outcome.next.inj h]
    exact takeFrame_ran (s' := s) ⟨rfl, rfl⟩ seq (fun _ => commandOfFrame_fits) fun x hx => .inl ⟨seq, mapLoad_row hx⟩
  | unknownCommand code seq payload =>
    rw [← Host.Outcome.next.inj h]
    split
    · exact ran_of_ports .refl rfl
    · exact takeFrame_ran (s' := s) ⟨rfl, rfl⟩ seq (fun _ => commandOfFrame_fits) fun x hx =>
        .inr (.inl ⟨code, seq, payload, rfl, hx⟩)
  | status seq => exact Host.Outcome.next.inj h ▸ row_ran s seq (cmd := .status) trivial
  | mapRead seq port => exact Host.Outcome.next.inj h ▸ row_ran s seq (cmd := .mapRead port) trivial
  | mapOpen seq port => exact Host.Outcome.next.inj h ▸ row_ran s seq (cmd := .mapOpen port) trivial
  | fence seq port revoke => exact Host.Outcome.next.inj h ▸ row_ran s seq (cmd := .fence port revoke) trivial
  | unfence seq port => exact Host.Outcome.next.inj h ▸ row_ran s seq (cmd := .unfence port) trivial
  | quiesce seq => exact Host.Outcome.next.inj h ▸ row_ran s seq (cmd := .quiesce) trivial
  | resume seq => exact Host.Outcome.next.inj h ▸ row_ran s seq (cmd := .resume) trivial
  | claimList seq first maximum => exact Host.Outcome.next.inj h ▸ row_ran s seq (cmd := .claimList first maximum) trivial
  | claimRevoke seq slot addr ticket => exact Host.Outcome.next.inj h ▸ row_ran s seq (cmd := .claimRevoke slot addr ticket) trivial
  | claimClear seq slot => exact Host.Outcome.next.inj h ▸ row_ran s seq (cmd := .claimClear slot) trivial
  | logRead seq maximum => exact Host.Outcome.next.inj h ▸ row_ran s seq (cmd := .logRead maximum) trivial
  | timeSet seq divisor => exact Host.Outcome.next.inj h ▸ row_ran s seq (cmd := .timeSet divisor) trivial

/-! ### What the cases keep, every step keeps -/

/-- A property that the elementary changes, the changes of the other parts, ticks and part reset keep is kept by the end of an
event. -/
theorem endEvent_kept {P : State → Prop} (change : ∀ s t, Change s t → P s → P t) (outer : ∀ s t, Outer s t → P s → P t)
    (s before : State) (h : P s) : P (s.endEvent before) := by
  unfold State.endEvent
  split
  · exact kept_of_each change (takeReady_changes ..) h
  · refine kept_of_each change (takeReady_changes ..) ?_
    unfold State.drainEnd
    split
    · split
      · exact outer _ _ (.setLink ..) (outer _ _ (.setLink ..) (outer _ _ (.setQuiesce ..) h))
      · exact h
    · exact h

/-- An invariant of the part is shown by its being kept by the elementary changes, the changes of the other parts, ticks and
part reset. -/
theorem keptByStep_of_changes {P : State → Prop} (change : ∀ s t, Change s t → P s → P t)
    (outer : ∀ s t, Outer s t → P s → P t) (tick : ∀ s first, P s → P (s.takeTick first))
    (reset : ∀ s, P s → P s.assertPartReset) : KeptByStep P := by
  have ended : ∀ {s} before, P s → P (s.endEvent before) := fun before => endEvent_kept change outer _ before
  have run : ∀ {c s t}, exec c s = .next t → P s → P t := by
    intro c s t h hs
    cases exec_ran h with
    | event hc => exact ended s (kept_of_each change hc hs)
    | quiet hc => exact kept_of_each change hc hs
    | @waits p r online => exact outer _ _ (.present s p r online) hs
    | @completed op u m t _ _ before rewritten after =>
      refine ended s (kept_of_each change after (outer _ _ (.setBank u m ?_) (kept_of_each change before hs)))
      rcases rewritten with rfl | ⟨be, d, rfl⟩
      · exact id
      · exact writeWord_wf _ _ _ _
    | tick first =>
      refine ended s (tick _ first (outer _ _ (.setTime s s.divisor s.divisor fun h => ?_) hs))
      exact ⟨h.1.trans h.2, le_rfl⟩
    | period not_one =>
      refine outer _ _ (.setTime s s.divisor (s.divider - 1) fun h => ?_) hs
      obtain ⟨low, high⟩ := h
      have : s.divider.toNat ≠ 1 := fun h1 => not_one (BitVec.eq_of_toNat_eq h1)
      have : (s.divider - 1).toNat = s.divider.toNat - 1 := by
        rw [BitVec.toNat_sub_of_le (by simpa [BitVec.le_def] using low)]
        rfl
      omega
    | partReset => exact reset s hs
    | released => exact ended s (outer _ _ (.release s) hs)
    | @setMap p m l sound => exact outer _ _ (.setLink _ l) (outer _ _ (.setMap s p m sound) hs)
    | @setTime d l not_zero =>
      refine outer _ _ (.setLink _ l) (outer _ _ (.setTime s d d fun _ => ⟨?_, le_rfl⟩) hs)
      have : d.toNat ≠ 0 := fun h0 => not_zero (BitVec.eq_of_toNat_eq h0)
      omega
    | @cleared slot i a k w l _ _ he => exact outer _ _ (.setLink _ l) (outer _ _ (.clearSlot s i a k w he) hs)
    | @quiesced l => exact outer _ _ (.setLink _ l) (outer _ _ (.setQuiesce s _) hs)
    | @draining l => exact outer _ _ (.setLink _ l) (outer _ _ (.setQuiesce s _) hs)
    | @resumed l => exact ended s (outer _ _ (.setLink _ l) (outer _ _ (.setQuiesce s _) hs))
  intro s t hs h
  unfold step at h
  split at h
  · unfold State.idle at h
    split at h
    · exact run h hs
    · exact Host.Outcome.next.inj h ▸ hs
  next c rest _ => exact run h (outer _ _ (.pending s rest) hs)

/-- What the decrement and the elementary changes keep, a tick keeps. -/
theorem takeTick_kept {P : State → Prop} (change : ∀ s t, Change s t → P s → P t)
    (counted : ∀ s : State, P s → P (s.forSlots State.tickAt)) (s : State) (first : Option Expiry) (h : P s) :
    P (s.takeTick first) := by
  have expired : ∀ s e, P s → P (s.expire e) := fun s e => kept_of_each change (expire_changes s e)
  have ticked := counted s h
  unfold State.takeTick
  generalize s.forSlots State.tickAt = u at ticked
  cases first with
  | none => exact expireAll_induct P expired (fun s => change _ _ (.useFree s)) _ u ticked
  | some e => exact expireAll_induct P expired (fun s => change _ _ (.useFree s)) _ _ (expired u e ticked)

end Sys2Proof.Machine
end

section
/-! The changes as the claim table, the write-back queue and the memory port see them. Invariants of these three alone are shown
over `TableChange`, which has no word of ports, notices and replies. -/

namespace Sys2Proof.Machine

/-- A change of a HELD entry that keeps word, holder, ticket, payload and write-back state (R28, R40, R47, R51, R52, R59). -/
inductive ListChange : HeldEntry → HeldEntry → Prop where
  | renew (h) : ListChange h h.renew
  | enrol (h w) : h.holder ≠ w.port → enrolled h.waiters w.port = false → w.countSound = true → ListChange h (h.enrol w)
  | convert (h p f) : ListChange h { h with waiters := convert h.waiters p f }
  | leave (h p) : ListChange h { h with waiters := without h.waiters p }

/-- One change as the claim table, the write-back queue and the memory port see it. -/
inductive TableChange : State → State → Prop where
  | same {s t : State} : t.table = s.table → t.writeBackQueue = s.writeBackQueue →
      t.memPort.operation = s.memPort.operation → TableChange s t
  | allocate (s p a i) : s.lookup a = none → s.entry i = .free → TableChange s (s.setEntry i (.fetching a p .none))
  | mark (s i a p m m') : s.entry i = .fetching a p m → TableChange s (s.setEntry i (.fetching a p m'))
  | freeFetch (s i a p m) : s.entry i = .fetching a p m → TableChange s (s.setEntry i .free)
  | grant (s i a p q m w n) : s.entry i = .fetching a q m → TableChange s (s.setEntry i (.held (grantedEntry a p w n)))
  | list (s i h h') : s.entry i = .held h → ListChange h h' → TableChange s (s.setEntry i (.held h'))
  | lose (s i) (h : HeldEntry) (v) : s.entry i = .held { h with payload := v } →
      TableChange s ((s.setEntry i h.afterLoss).setQueue
        (if h.queuesAtLoss then s.writeBackQueue ++ [i] else s.writeBackQueue))
  | revive (s p i r n) : s.entry i = .retiring r →
      TableChange s ((s.setEntry i (.held { address := r.address, holder := p, ticket := r.ticket + 1, payload := r.payload
                                            lease := leaseOf n, waiters := []
                                            writeBack := r.writeBack.map InFlight.regrant })).setQueue
        (if r.writeBack.isNone then s.writeBackQueue.filter (· ≠ i) else s.writeBackQueue))
  | issue (s p work a g) : s.memPort.operation = none → TableChange s (s.setOperation (some (.ofPort p work a g)))
  | issueWriteBack (s i rest r) : s.memPort.operation = none → s.writeBackQueue = i :: rest → s.entry i = .retiring r →
      TableChange s (((s.setQueue rest).setEntry i
        (.retiring { r with writeBack := some { written := r.ticket, regranted := false } })).setOperation
          (some (.ofWriteBack i r.address (claimWord r.ticket r.payload))))
  | dropHead (s i rest) : s.writeBackQueue = i :: rest → (∀ r, s.entry i ≠ .retiring r) → TableChange s (s.setQueue rest)
  | endPort (s p work a g) : s.memPort.operation = some (.ofPort p work a g) → TableChange s (s.setOperation none)
  | giveUp (s p work a g g') : s.memPort.operation = some (.ofPort p work a g) →
      TableChange s (s.setOperation (some (.ofPort p work a g')))
  | requeue (s i a d r b) : s.memPort.operation = some (.ofWriteBack i a d) → s.entry i = .retiring r →
      r.writeBack = some b → TableChange s ((s.setOperation none).requeue i r)
  | written (s i a d r b e) : s.memPort.operation = some (.ofWriteBack i a d) → s.entry i = .retiring r →
      r.writeBack = some b → (e = .free ∨ e = .quarantined r.address r.ticket r.payload) →
      TableChange s ((s.setOperation none).setEntry i e)
  | writtenHeld (s i a d h) : s.memPort.operation = some (.ofWriteBack i a d) → s.entry i = .held h →
      TableChange s ((s.setOperation none).setEntry i (.held { h with writeBack := none }))
  | writtenOther (s i a d) : s.memPort.operation = some (.ofWriteBack i a d) → (s.entry i).inFlight = none →
      TableChange s (s.setOperation none)

/-- Changes one after another, as the claim table sees them. -/
abbrev TableChanges : State → State → Prop := Relation.ReflTransGen TableChange

theorem TableChange.one {s t : State} (h : TableChange s t) : TableChanges s t := Relation.ReflTransGen.single h

/-- A change that the table does not see. -/
theorem tableChanges_same {s t : State} (table : t.table = s.table) (queue : t.writeBackQueue = s.writeBackQueue)
    (operation : t.memPort.operation = s.memPort.operation) : TableChanges s t := (TableChange.same table queue operation).one

/-- A change is followed by one that the table does not see. -/
theorem TableChanges.unseen {s t u : State} (h : TableChanges s t) (table : u.table = t.table)
    (queue : u.writeBackQueue = t.writeBackQueue) (operation : u.memPort.operation = t.memPort.operation) :
    TableChanges s u := h.tail (.same table queue operation)

theorem TableChange.unseen {s t u : State} (h : TableChange s t) (table : u.table = t.table)
    (queue : u.writeBackQueue = t.writeBackQueue) (operation : u.memPort.operation = t.memPort.operation) :
    TableChanges s u := h.one.unseen table queue operation

theorem waitMode_countSound (p : Port) (limit n : Ticks) :
    Waiter.countSound { port := p, mode := waitMode limit, lease := n } = true := by
  by_cases h : limit = 0
  · simp [Waiter.countSound, waitMode, h]
  · have : limit.toNat ≠ 0 := fun h0 => h (BitVec.eq_of_toNat_eq h0)
    simp only [Waiter.countSound, waitMode, h, if_false, countSound, Bool.and_eq_true, decide_eq_true_eq]
    omega

/-! ### The operations of several steps -/

theorem lose_table (s : State) (cause : LossCause) (i : Slot) (h : HeldEntry) :
    (s.lose cause i h).table = (s.setEntry i h.afterLoss).table := by
  refine table_ext fun j => ?_
  by_cases hj : j = i
  · rw [hj, lose_entry, entry_setEntry_same]
  · rw [lose_entry_other _ _ _ _ _ hj, entry_setEntry_other _ _ _ _ hj]

theorem lose_tableChanges {s : State} {i : Slot} {h : HeldEntry} {v : Payload} (cause : LossCause)
    (he : s.entry i = .held { h with payload := v }) : TableChanges s (s.lose cause i h) :=
  (TableChange.lose s i h v he).unseen (lose_table s cause i h) (by rw [lose_queue]; rfl) (by simp)

theorem removeAt_tableChanges (p : Port) (s : State) (i : Slot) : TableChanges s (State.removeAt p s i) := by
  unfold State.removeAt
  split
  next h he => exact (TableChange.list s i h _ he (.leave h p)).one
  · exact .refl

theorem loseAt_tableChanges (cause : LossCause) (p : Port) (s : State) (i : Slot) :
    TableChanges s (State.loseAt cause p s i) := by
  unfold State.loseAt
  split
  next h he =>
    split
    · exact lose_tableChanges cause (v := h.payload) he
    · exact .refl
  · exact .refl

theorem forSlots_tableChanges {f : State → Slot → State} (hf : ∀ s i, TableChanges s (f s i)) (s : State) :
    TableChanges s (s.forSlots f) :=
  forSlots_induct (TableChanges s) f (fun t i h => h.trans (hf t i)) s .refl

theorem fetchingAt_entry {s : State} {a : PhysAddr} {i : Slot} {m : OrphanMark} (h : s.fetchingAt a = some (i, m)) :
    ∃ p, s.entry i = .fetching a p m := by
  unfold State.fetchingAt at h
  split at h
  next j x p mark heq =>
    obtain ⟨k, found, hk⟩ := Option.map_eq_some_iff.1 heq
    obtain ⟨rfl, he⟩ := Prod.mk.inj hk
    obtain ⟨rfl, rfl⟩ := Prod.mk.inj (Option.some.inj h)
    have address := lookup_address found
    rw [he] at address
    exact ⟨p, by rw [he, Option.some.inj address]⟩
  · cases h

theorem withdraw_tableChanges (s : State) (t : Transaction) : TableChanges s (s.withdraw t) := by
  unfold State.withdraw
  split
  · split
    next i m found =>
      obtain ⟨p, he⟩ := fetchingAt_entry found
      exact (TableChange.freeFetch s i _ p m he).one
    · exact .refl
  · exact .refl

theorem orphan_tableChanges (s : State) (a : PhysAddr) (f : OrphanMark → OrphanMark) : TableChanges s (s.orphan a f) := by
  unfold State.orphan
  split
  next i x q m heq =>
    obtain ⟨k, -, hk⟩ := Option.map_eq_some_iff.1 heq
    obtain ⟨rfl, he⟩ := Prod.mk.inj hk
    exact (TableChange.mark s k x q m _ he).one
  · exact .refl

theorem giveUp_tableChanges (s : State) (p : Port) : TableChanges s (s.giveUp p) := by
  unfold State.giveUp
  rcases hop : s.memPort.operation with _ | ⟨q, work, a, g⟩ | ⟨i, a, d⟩
  · exact tableChanges_same rfl rfl (by simp only [setOperation_memPort, hop]; rfl)
  · exact (TableChange.giveUp s q work a g _ hop).one
  · exact tableChanges_same rfl rfl (by simp only [setOperation_memPort, hop]; rfl)

theorem endByReset_tableChanges (s : State) (p : Port) : TableChanges s (s.endByReset p) := by
  unfold State.endByReset
  split
  · exact .refl
  · exact (withdraw_tableChanges s _).unseen rfl rfl rfl
  · split
    · exact (orphan_tableChanges s _ _).unseen rfl rfl rfl
    · exact (giveUp_tableChanges s p).unseen rfl rfl rfl
  · exact tableChanges_same rfl rfl rfl

theorem endByFence_tableChanges (s : State) (p : Port) : TableChanges s (s.endByFence p) := by
  unfold State.endByFence
  split
  · exact .refl
  · exact (withdraw_tableChanges s _).unseen rfl rfl rfl
  · split
    · exact orphan_tableChanges s _ _
    · exact .refl
  · exact tableChanges_same rfl rfl rfl

theorem assertReset_tableChanges {s : State} {p : Port} (h : (s.port p).resetAsserted = false) :
    TableChanges s (s.assertReset p) := by
  rw [assertReset_eq h]
  refine Relation.ReflTransGen.trans ?_ (forSlots_tableChanges (loseAt_tableChanges .offline p) _)
  refine Relation.ReflTransGen.trans ?_ (forSlots_tableChanges (removeAt_tableChanges p) _)
  refine TableChanges.unseen ?_ rfl rfl rfl (t := (s.shut p).endByReset p)
  exact Relation.ReflTransGen.head (b := s.shut p) (.same rfl rfl rfl) (endByReset_tableChanges ..)

theorem fence_tableChanges (s : State) (p : Port) : TableChanges s (s.fencePort p false) := by
  rw [fencePort_eq]
  refine Relation.ReflTransGen.trans ?_ (forSlots_tableChanges (removeAt_tableChanges p) _)
  exact Relation.ReflTransGen.head (b := s.raiseFence p) (.same rfl rfl rfl) (endByFence_tableChanges ..)

theorem freeSlot_fetching_tableChange {s : State} {a : PhysAddr} {i : Slot} {m : OrphanMark}
    (found : s.fetchingAt a = some (i, m)) : TableChange s (s.freeSlot i) := by
  obtain ⟨q, he⟩ := fetchingAt_entry found
  exact .freeFetch s i a q m he

theorem fetchData_tableChanges (s : State) (p : Port) (a : PhysAddr) (w : Word) : TableChanges s (s.fetchData p a w) := by
  unfold State.fetchData
  split
  next i t found _ =>
    obtain ⟨q, he⟩ := fetchingAt_entry found
    exact (TableChange.grant s i a p q .none w t.lease he).unseen rfl rfl rfl
  next found _ => exact (freeSlot_fetching_tableChange found).unseen rfl rfl rfl
  next found => exact (freeSlot_fetching_tableChange found).one
  next found _ => exact (freeSlot_fetching_tableChange found).one
  · exact .refl

theorem fetchError_tableChanges (s : State) (p : Port) (a : PhysAddr) : TableChanges s (s.fetchError p a) := by
  unfold State.fetchError
  split
  next found _ => exact (freeSlot_fetching_tableChange found).unseen rfl rfl rfl
  next found _ => exact (freeSlot_fetching_tableChange found).unseen rfl rfl rfl
  next found => exact (freeSlot_fetching_tableChange found).unseen rfl rfl rfl
  next found _ => exact (freeSlot_fetching_tableChange found).one
  · exact .refl

theorem writeBackDone_tableChanges {s : State} {i : Slot} {a : PhysAddr} {d : Word}
    (hop : s.memPort.operation = some (.ofWriteBack i a d)) : TableChanges s ((s.setOperation none).writeBackDone i) := by
  unfold State.writeBackDone
  rcases he : s.entry i with _ | ⟨x, q, m⟩ | h | r | ⟨x, k, w⟩ <;> simp only [setOperation_entry, he]
  · exact (TableChange.writtenOther s i a d hop (by rw [he]; rfl)).one
  · exact (TableChange.writtenOther s i a d hop (by rw [he]; rfl)).one
  · exact (TableChange.writtenHeld s i a d h hop he).one
  · rcases hb : r.writeBack with _ | b
    · exact (TableChange.writtenOther s i a d hop (by rw [he]; exact hb)).one
    · simp only
      split
      · exact (TableChange.requeue s i a d r b hop he hb).one
      · exact (TableChange.written s i a d r b _ hop he hb (.inl rfl)).one
  · exact (TableChange.writtenOther s i a d hop (by rw [he]; rfl)).one

theorem writeBackError_tableChanges {s : State} {i : Slot} {a : PhysAddr} {d : Word} (k : Ticket)
    (hop : s.memPort.operation = some (.ofWriteBack i a d)) :
    TableChanges s ((s.setOperation none).writeBackError i a k) := by
  simp only [State.writeBackError]
  rcases he : s.entry i with _ | ⟨x, q, m⟩ | h | r | ⟨x, c, w⟩ <;>
    simp only [logFault_entry, setOperation_entry, he]
  · exact (TableChange.writtenOther s i a d hop (by rw [he]; rfl)).unseen rfl rfl rfl
  · exact (TableChange.writtenOther s i a d hop (by rw [he]; rfl)).unseen rfl rfl rfl
  · exact (TableChange.writtenHeld s i a d h hop he).unseen rfl rfl rfl
  · rcases hb : r.writeBack with _ | b
    · exact (TableChange.writtenOther s i a d hop (by rw [he]; exact hb)).unseen rfl rfl rfl
    · simp only
      split
      · exact (TableChange.requeue s i a d r b hop he hb).unseen rfl rfl rfl
      · exact (TableChange.written s i a d r b _ hop he hb (.inr rfl)).unseen rfl rfl rfl
  · exact (TableChange.writtenOther s i a d hop (by rw [he]; rfl)).unseen rfl rfl rfl

theorem grantWriteBack_tableChanges {s : State} (hf : s.memPort.operation = none) : TableChanges s s.grantWriteBack := by
  unfold State.grantWriteBack
  split
  · exact .refl
  next i rest queue =>
    simp only
    split
    next r he => exact (TableChange.issueWriteBack s i rest r hf queue he).unseen rfl rfl rfl
    next other => exact (TableChange.dropHead s i rest queue other).one

theorem revive_tableChanges {s : State} {i : Slot} {r : RetiringEntry} (he : s.entry i = .retiring r) (p : Port)
    (f : ClaimFields) : TableChanges s (s.revive p f i r) := by
  refine (TableChange.revive s p i r f.lease he).unseen ?_ ?_ ?_ <;>
    · simp only [State.revive]
      split <;> rfl

/-- Every elementary change, as the claim table sees it. -/
theorem Change.tableChanges {s t : State} (h : Change s t) : TableChanges s t := by
  cases h with
  | notify => exact tableChanges_same (by simp) (by simp) (by simp)
  | allocate p r a f i _ absent lowest =>
    exact (TableChange.allocate s p a i absent (lowestFree_free lowest)).unseen rfl rfl rfl
  | renew i h he => exact (TableChange.list s i h _ he (.renew h)).one
  | enrol i h w he _ holder unlisted queue =>
    exact (TableChange.list s i h _ he (.enrol h w holder unlisted (by simp [Waiter.countSound, queue]))).one
  | stall p r a f i h he _ holder unlisted =>
    exact (TableChange.list s i h _ he (.enrol h _ holder unlisted (waitMode_countSound ..))).unseen rfl rfl rfl
  | convert p r a f i h he => exact (TableChange.list s i h _ he (.convert h p f)).unseen rfl rfl rfl
  | revive p f i r he => exact revive_tableChanges he p f
  | lose cause i h v he => exact lose_tableChanges cause he
  | withdraw p i h he => exact (TableChange.list s i h _ he (.leave h p)).one
  | timeOut p i h r he => exact (TableChange.list s i h _ he (.leave h p)).unseen rfl rfl rfl
  | issue p t free => exact (TableChange.issue s p t.work t.physical false free).unseen rfl rfl rfl
  | grantWriteBack free => exact grantWriteBack_tableChanges free
  | discard p work a g hop => exact (TableChange.endPort s p work a g hop).one
  | returned p work a t r hop => exact (TableChange.endPort s p work a false hop).unseen rfl rfl rfl
  | fetchData p a g w hop =>
    exact (TableChange.endPort s p .grantFetch a g hop).one.trans (fetchData_tableChanges ..)
  | fetchError p a g hop =>
    exact (TableChange.endPort s p .grantFetch a g hop).one.trans (fetchError_tableChanges ..)
  | writeBackDone i a d hop => exact writeBackDone_tableChanges hop
  | writeBackError i a d hop => exact writeBackError_tableChanges _ hop
  | assertReset p online => exact assertReset_tableChanges online
  | fence p => exact fence_tableChanges s p
  | _ => exact tableChanges_same rfl rfl rfl

/-- Part reset leaves an empty table, an empty write-back queue and an idle memory port (R5, R146). -/
theorem assertPartReset_entry (s : State) (i : Slot) : s.assertPartReset.entry i = .free := by
  show (Vector.replicate 64 Entry.free)[i.val] = .free
  simp

theorem abandon_within_fields (s : State) : s.abandon.ports = s.ports ∧ s.abandon.link = s.link ∧
    s.abandon.pending = s.pending := by
  unfold State.abandon
  split <;> exact ⟨rfl, rfl, rfl⟩

/-- An invariant of the claim table, the write-back queue and the operation in flight is shown by its being kept by the changes
that the table sees, by the end of a quarantine, and by ticks. -/
theorem keptByStep_of_tableChanges {P : State → Prop} (change : ∀ s t, TableChange s t → P s → P t)
    (clear : ∀ s i a k w, s.entry i = .quarantined a k w → P s → P (s.setEntry i .free))
    (tick : ∀ s first, P s → P (s.takeTick first))
    (reset : ∀ s : State, (∀ i, s.entry i = .free) → s.writeBackQueue = [] → s.memPort.operation = none → P s) :
    KeptByStep P := by
  refine keptByStep_of_changes (fun s t h => kept_of_each change h.tableChanges) (fun s t h => ?_) tick
    fun s _ => reset _ (assertPartReset_entry s) rfl rfl
  cases h with
  | clearSlot i a k w he => exact clear s i a k w he
  | _ => exact change _ _ (.same rfl rfl rfl)

/-- What the changes that the table sees and the decrement keep, a tick keeps. -/
theorem takeTick_kept_of_tableChanges {P : State → Prop} (change : ∀ s t, TableChange s t → P s → P t)
    (counted : ∀ s : State, P s → P (s.forSlots State.tickAt)) (s : State) (first : Option Expiry) (h : P s) :
    P (s.takeTick first) :=
  takeTick_kept (fun _ _ h => kept_of_each change h.tableChanges) counted s first h

end Sys2Proof.Machine
end

section
/-! Every step keeps the claim table and the write-back queue sound (R2, R13 to R18, R45). -/

namespace Sys2Proof.Machine

/-! ### A change of a HELD entry keeps what the other units know of it -/

theorem ListChange.address {h h' : HeldEntry} (c : ListChange h h') : h'.address = h.address := by cases c <;> rfl
theorem ListChange.holder {h h' : HeldEntry} (c : ListChange h h') : h'.holder = h.holder := by cases c <;> rfl
theorem ListChange.writeBack {h h' : HeldEntry} (c : ListChange h h') : h'.writeBack = h.writeBack := by cases c <;> rfl

theorem afterLoss_address (h : HeldEntry) : h.afterLoss.address = some h.address := by
  unfold HeldEntry.afterLoss
  split <;> rfl

/-- A tick changes the lease and the list of a HELD entry alone. -/
theorem tickAt_cases (s : State) (i : Slot) : State.tickAt s i = s.setEntry i (s.entry i) ∨
    ∃ h, s.entry i = .held h ∧ State.tickAt s i = s.setEntry i (.held h.counted) := by
  unfold State.tickAt
  rw [entry_tick]
  cases s.entry i with
  | held h => exact .inr ⟨h, rfl, rfl⟩
  | _ => exact .inl rfl

theorem setEntry_self (s : State) (i : Slot) : s.setEntry i (s.entry i) = s := by
  refine State.eq_of_fields rfl rfl (table_ext fun j => ?_) rfl rfl rfl rfl rfl rfl rfl rfl rfl rfl rfl rfl
  rw [entry_setEntry]
  split
  next h => rw [h]
  · rfl

/-- What a change of the counts of a HELD entry keeps, the decrement of a tick keeps. -/
theorem ticked_kept {P : State → Prop} (held : ∀ s i h, s.entry i = .held h → P s → P (s.setEntry i (.held h.counted)))
    (s : State) (hs : P s) : P (s.forSlots State.tickAt) := by
  refine forSlots_induct P State.tickAt (fun s i hs => ?_) s hs
  rcases tickAt_cases s i with eq | ⟨h, he, eq⟩
  · rw [eq, setEntry_self]
    exact hs
  · rw [eq]
    exact held s i h he hs

/-! ### Addresses (R2) -/

/-- An entry replaced by one of the same word, or by none, leaves the addresses distinct. -/
theorem addressesDistinct_replace {s : State} {i : Slot} {e : Entry} (hs : s.AddressesDistinct)
    (he : ∀ a, e.address = some a → (s.entry i).address = some a) : (s.setEntry i e).AddressesDistinct :=
  addressesDistinct_setEntry hs fun j hj a ha other => hj (hs j i (by simp [other]) (other.trans (he a ha).symm))

theorem addressesDistinct_same_word {s : State} {i : Slot} {e : Entry} (hs : s.AddressesDistinct)
    (he : e.address = (s.entry i).address) : (s.setEntry i e).AddressesDistinct :=
  addressesDistinct_replace hs fun _ ha => he ▸ ha

theorem addressesDistinct_free_slot {s : State} {i : Slot} (hs : s.AddressesDistinct) :
    (s.setEntry i .free).AddressesDistinct := addressesDistinct_replace hs nofun

theorem TableChange.addressesDistinct {s t : State} (h : TableChange s t) (hs : s.AddressesDistinct) :
    t.AddressesDistinct := by
  cases h with
  | same table =>
    have entry : ∀ i, t.entry i = s.entry i := fun i => by simp only [State.entry, table]
    intro i j hi hij
    rw [entry] at hi hij
    exact hs i j hi (entry j ▸ hij)
  | allocate p a i absent => exact addressesDistinct_setEntry hs fun j _ x hx => Option.some.inj hx ▸ lookup_eq_none.1 absent j
  | mark i a p m m' he => exact addressesDistinct_same_word hs (by rw [he]; rfl)
  | freeFetch => exact addressesDistinct_free_slot hs
  | grant i a p q m w n he => exact addressesDistinct_same_word hs (by rw [he]; rfl)
  | list i h h' he c => exact addressesDistinct_same_word hs (by rw [he]; exact congrArg some c.address)
  | lose i h v he => exact addressesDistinct_same_word hs (by rw [he, afterLoss_address]; rfl)
  | revive p i r n he => exact addressesDistinct_same_word hs (by rw [he]; rfl)
  | issueWriteBack i rest r _ _ he =>
    exact addressesDistinct_same_word (s := s.setQueue rest) hs (by rw [setQueue_entry, he]; rfl)
  | requeue i a d r b _ he =>
    exact addressesDistinct_same_word (s := s.setOperation none) hs (by rw [setOperation_entry, he]; rfl)
  | written i a d r b e _ he _ free =>
    refine addressesDistinct_replace (s := s.setOperation none) hs ?_
    rw [setOperation_entry, he]
    rcases free with rfl | rfl
    · nofun
    · exact fun _ h => h
  | writtenHeld i a d h _ he =>
    exact addressesDistinct_same_word (s := s.setOperation none) hs (by rw [setOperation_entry, he]; rfl)
  | _ => exact hs

theorem Outer.addressesDistinct {s t : State} (h : Outer s t) (hs : s.AddressesDistinct) : t.AddressesDistinct := by
  cases h with
  | clearSlot => exact addressesDistinct_free_slot hs
  | _ => exact hs

theorem addressesDistinct_kept : KeptByStep fun s => s.AddressesDistinct :=
  keptByStep_of_tableChanges (fun _ _ h => h.addressesDistinct) (fun _ _ _ _ _ _ => addressesDistinct_free_slot)
    (takeTick_kept_of_tableChanges (fun _ _ h => h.addressesDistinct)
      (ticked_kept fun s i h he hs => addressesDistinct_same_word hs (by rw [he]; rfl)))
    fun _ free _ _ => addressesDistinct_free free

/-! ### Properties of each entry -/

/-- A property of every entry stands where an entry is replaced by one that has it. -/
theorem forall_entry_setEntry {Q : Entry → Prop} {s : State} {i : Slot} {e : Entry} (hs : ∀ j, Q (s.entry j)) (he : Q e) (j : Slot) :
    Q ((s.setEntry i e).entry j) := by
  rw [entry_setEntry]
  split
  · exact he
  · exact hs j

/-- What one table change makes of an entry: it is as it was, or one of the forms that the change gives it. -/
theorem TableChange.forall_entry {Q : Entry → Prop} (free : Q .free) (fetching : ∀ a p m, Q (.fetching a p m))
    (retiring : ∀ r, Q (.retiring r)) (quarantined : ∀ a k w, Q (.quarantined a k w))
    (fresh : ∀ a p k w n b, Q (.held { address := a, holder := p, ticket := k, payload := w, lease := leaseOf n, waiters := []
                                       writeBack := b }))
    (list : ∀ h h', ListChange h h' → Q (.held h) → Q (.held h'))
    (lose : ∀ (h : HeldEntry) v, Q (.held { h with payload := v }) → Q h.afterLoss)
    (written : ∀ h, Q (.held h) → Q (.held { h with writeBack := none }))
    {s t : State} (c : TableChange s t) (hs : ∀ i, Q (s.entry i)) (i : Slot) : Q (t.entry i) := by
  cases c with
  | same table =>
    have entry : t.entry i = s.entry i := by simp only [State.entry, table]
    exact entry ▸ hs i
  | allocate p a i => exact forall_entry_setEntry hs (fetching ..) _
  | mark => exact forall_entry_setEntry hs (fetching ..) _
  | freeFetch => exact forall_entry_setEntry hs free _
  | grant => exact forall_entry_setEntry hs (fresh ..) _
  | list j h h' he c => exact forall_entry_setEntry hs (list h h' c (he ▸ hs j)) _
  | lose j h v he => exact forall_entry_setEntry hs (lose h v (he ▸ hs j)) _
  | revive => exact forall_entry_setEntry hs (fresh ..) _
  | issueWriteBack j rest => exact forall_entry_setEntry (s := s.setQueue rest) hs (retiring _) _
  | requeue => exact forall_entry_setEntry (s := s.setOperation none) hs (retiring _) _
  | written j a d r b e _ _ _ form =>
    refine forall_entry_setEntry (s := s.setOperation none) hs ?_ _
    rcases form with rfl | rfl
    · exact free
    · exact quarantined ..
  | writtenHeld j a d h _ he => exact forall_entry_setEntry (s := s.setOperation none) hs (written h (he ▸ hs j)) _
  | _ => exact hs i

/-! ### Waiter lists (R45) -/

theorem listSound_held {h : HeldEntry} :
    (Entry.held h).listSound = true ↔ enrolled h.waiters h.holder = false ∧ (h.waiters.map Waiter.port).Nodup := by
  simp only [Entry.listSound, decide_eq_true_eq, List.nodup_cons, enrolled_eq_false, List.mem_map, not_exists, not_and]

theorem enrolled_without_of {l : List Waiter} {p q : Port} (h : enrolled l q = false) : enrolled (without l p) q = false := by
  rw [enrolled_eq_false] at h ⊢
  exact fun w hw => h w (List.mem_filter.1 hw).1

theorem convert_ports (l : List Waiter) (p : Port) (f : ClaimFields) : (convert l p f).map Waiter.port = l.map Waiter.port := by
  simp only [convert, List.map_map]
  refine List.map_congr_left fun w _ => ?_
  simp only [Function.comp_apply]
  split <;> rfl

theorem enrolled_eq_mem {l : List Waiter} {p : Port} : enrolled l p = true ↔ p ∈ l.map Waiter.port := by
  rw [enrolled_eq_true, List.mem_map]

theorem enrolled_congr {l l' : List Waiter} (h : l'.map Waiter.port = l.map Waiter.port) (p : Port) :
    enrolled l' p = enrolled l p := by
  rw [Bool.eq_iff_iff, enrolled_eq_mem, enrolled_eq_mem, h]

theorem listSound_ports {h h' : HeldEntry} (holder : h'.holder = h.holder)
    (ports : h'.waiters.map Waiter.port = h.waiters.map Waiter.port) :
    (Entry.held h').listSound = (Entry.held h).listSound := by
  simp only [Entry.listSound, holder, ports]

theorem listSound_listChange {h h' : HeldEntry} (c : ListChange h h') (hs : (Entry.held h).listSound = true) :
    (Entry.held h').listSound = true := by
  cases c with
  | renew => exact hs
  | enrol w holder unlisted =>
    obtain ⟨own, nodup⟩ := listSound_held.1 hs
    refine listSound_held.2 ⟨?_, ?_⟩
    · rw [enrolled_eq_false] at own ⊢
      intro v hv
      rcases List.mem_append.1 hv with hv | hv
      · exact own v hv
      · rw [List.mem_singleton.1 hv]
        exact Ne.symm holder
    · simp only [HeldEntry.enrol, List.map_append, List.map_cons, List.map_nil]
      refine List.nodup_append.2 ⟨nodup, List.nodup_singleton _, fun x hx y hy hxy => ?_⟩
      rw [hxy, List.mem_singleton.1 hy, ← enrolled_eq_mem, unlisted] at hx
      cases hx
  | convert p f => exact (listSound_ports (h := h) (h' := { h with waiters := convert h.waiters p f }) rfl (convert_ports ..)).trans hs
  | leave p =>
    obtain ⟨own, nodup⟩ := listSound_held.1 hs
    exact listSound_held.2 ⟨enrolled_without_of own, nodup.sublist (List.filter_sublist.map Waiter.port)⟩

theorem listSound_afterLoss {h : HeldEntry} (hs : (Entry.held h).listSound = true) : h.afterLoss.listSound = true := by
  obtain ⟨-, nodup⟩ := listSound_held.1 hs
  unfold HeldEntry.afterLoss
  split
  · rfl
  next w rest hw =>
    rw [hw, List.map_cons, List.nodup_cons] at nodup
    exact listSound_held.2 ⟨Bool.eq_false_iff.2 fun h => nodup.1 (enrolled_eq_mem.1 h), nodup.2⟩

theorem counted_ports (l : List Waiter) : (l.map Waiter.counted).map Waiter.port = l.map Waiter.port := by
  simp only [List.map_map]
  refine List.map_congr_left fun w _ => ?_
  simp only [Function.comp_apply, Waiter.counted]
  split <;> rfl

theorem TableChange.listsSound {s t : State} (h : TableChange s t) (hs : s.ListsSound) : t.ListsSound :=
  h.forall_entry (Q := fun e => e.listSound = true) rfl (fun _ _ _ => rfl) (fun _ => rfl) (fun _ _ _ => rfl)
    (fun _ _ _ _ _ _ => listSound_held.2 ⟨rfl, List.nodup_nil⟩) (fun _ _ => listSound_listChange)
    (fun h _ hs => listSound_afterLoss (h := h) hs) (fun _ hs => hs) hs

theorem listsSound_ticked (s : State) (hs : s.ListsSound) : (s.forSlots State.tickAt).ListsSound :=
  ticked_kept (P := fun s => s.ListsSound)
    (fun _ i h he hs => forall_entry_setEntry (Q := fun e => e.listSound = true) hs
      ((listSound_ports (h := h) (h' := h.counted) rfl (counted_ports h.waiters)).trans (he ▸ hs i))) s hs

theorem listsSound_clear {s : State} (hs : s.ListsSound) (i : Slot) : (s.setEntry i .free).ListsSound :=
  forall_entry_setEntry (Q := fun e => e.listSound = true) hs rfl

theorem Outer.listsSound {s t : State} (h : Outer s t) (hs : s.ListsSound) : t.ListsSound := by
  cases h with
  | clearSlot i => exact listsSound_clear hs i
  | _ => exact hs

theorem listsSound_kept : KeptByStep fun s => s.ListsSound :=
  keptByStep_of_tableChanges (fun _ _ h => h.listsSound) (fun _ i _ _ _ _ hs => listsSound_clear hs i)
    (takeTick_kept_of_tableChanges (fun _ _ h => h.listsSound) listsSound_ticked)
    fun _ free _ _ i => by rw [free]; rfl

/-- A sound list names ports other than the holder, once each, so that it has at most three records (R45). -/
theorem waiters_length_le {e : Entry} (h : e.listSound = true) : e.waiters.length ≤ 3 := by
  cases e with
  | held x =>
    have nodup : (x.holder :: x.waiters.map Waiter.port).Nodup := by simpa [Entry.listSound] using h
    have := nodup.length_le_card
    simp only [List.length_cons, List.length_map, Fintype.card_fin] at this
    exact Nat.le_of_lt_succ this
  | _ => simp [Entry.waiters]

/-! ### The write-back queue (R13, R14, R16) -/

/-- The queue after one entry and the queue itself were replaced. -/
theorem queueSound_replace {s : State} {i : Slot} {e : Entry} {l : List Slot} (hs : s.QueueSound) (nodup : l.Nodup)
    (own : i ∈ l ↔ e.isQueued = true) (others : ∀ j, j ≠ i → (j ∈ l ↔ j ∈ s.writeBackQueue)) :
    ((s.setEntry i e).setQueue l).QueueSound := by
  refine ⟨nodup, fun j => ?_⟩
  show j ∈ l ↔ ((s.setEntry i e).entry j).isQueued = true
  by_cases hj : j = i
  · rw [hj, entry_setEntry_same, own]
  · rw [entry_setEntry_other _ _ _ _ hj, others j hj, hs.2]

theorem queueSound_setEntry {s : State} {i : Slot} {e : Entry} (hs : s.QueueSound)
    (he : e.isQueued = (s.entry i).isQueued) : (s.setEntry i e).QueueSound :=
  queueSound_replace (l := s.writeBackQueue) hs hs.1 (he ▸ hs.2 i) fun _ _ => Iff.rfl

theorem queueSound_append {s : State} {i : Slot} {e : Entry} (hs : s.QueueSound) (before : (s.entry i).isQueued = false)
    (after : e.isQueued = true) : ((s.setEntry i e).setQueue (s.writeBackQueue ++ [i])).QueueSound := by
  have absent : i ∉ s.writeBackQueue := fun h => by simp [(hs.2 i).1 h] at before
  refine queueSound_replace hs ?_ (by simp [after]) fun j hj => by simp [hj]
  exact List.nodup_append.2 ⟨hs.1, List.nodup_singleton _, fun x hx y hy hxy =>
    absent (by rwa [hxy, List.mem_singleton.1 hy] at hx)⟩

theorem afterLoss_isQueued (h : HeldEntry) : h.afterLoss.isQueued = h.queuesAtLoss := by
  unfold HeldEntry.afterLoss HeldEntry.queuesAtLoss
  split <;> simp_all [Entry.isQueued]

theorem TableChange.queueSound {s t : State} (h : TableChange s t) (hs : s.QueueSound) : t.QueueSound := by
  cases h with
  | same table queue =>
    have entry : ∀ i, t.entry i = s.entry i := fun i => by simp only [State.entry, table]
    refine ⟨queue ▸ hs.1, fun i => ?_⟩
    rw [queue, entry]
    exact hs.2 i
  | allocate p a i _ he => exact queueSound_setEntry hs (by rw [he]; rfl)
  | mark i a p m m' he => exact queueSound_setEntry hs (by rw [he]; rfl)
  | freeFetch i a p m he => exact queueSound_setEntry hs (by rw [he]; rfl)
  | grant i a p q m w n he => exact queueSound_setEntry hs (by rw [he]; rfl)
  | list i h h' he => exact queueSound_setEntry hs (by rw [he]; rfl)
  | lose i h v he =>
    have queued := afterLoss_isQueued h
    split
    next joins => exact queueSound_append hs (by rw [he]; rfl) (queued.trans joins)
    next stays => exact queueSound_setEntry (s := s) hs (by rw [queued, he, Bool.eq_false_iff.2 stays]; rfl)
  | revive p i r n he =>
    split
    · refine queueSound_replace hs (hs.1.filter _) (by simp [Entry.isQueued]) fun j hj => ?_
      simp [hj]
    next stays => exact queueSound_setEntry (s := s) hs (by rw [he]; exact (Bool.eq_false_iff.2 stays).symm)
  | issueWriteBack i rest r _ queue he =>
    have nodup : (i :: rest).Nodup := queue ▸ hs.1
    rw [List.nodup_cons] at nodup
    refine queueSound_replace (s := s) (e := .retiring { r with writeBack := some _ }) hs nodup.2 ?_ fun j hj => ?_
    · simp [Entry.isQueued, nodup.1]
    · rw [queue, List.mem_cons]
      simp [hj]
  | dropHead i rest queue other =>
    have queued := (hs.2 i).1 (by simp [queue])
    cases he : s.entry i with
    | retiring r => exact absurd he (other r)
    | _ => simp [he, Entry.isQueued] at queued
  | requeue i a d r b _ he hb =>
    exact queueSound_append (s := s) hs (by simp [he, Entry.isQueued, hb]) rfl
  | written i a d r b e _ he hb form =>
    refine queueSound_setEntry (s := s.setOperation none) hs ?_
    rw [setOperation_entry, he]
    rcases form with rfl | rfl <;> simp [Entry.isQueued, hb]
  | writtenHeld i a d h _ he =>
    exact queueSound_setEntry (s := s.setOperation none) hs (by rw [setOperation_entry, he]; rfl)
  | _ => exact hs

theorem queueSound_kept : KeptByStep fun s => s.QueueSound :=
  keptByStep_of_tableChanges (fun _ _ h => h.queueSound) (fun _ _ _ _ _ he hs => queueSound_setEntry hs (by rw [he]; rfl))
    (takeTick_kept_of_tableChanges (fun _ _ h => h.queueSound)
      (ticked_kept fun s i h he hs => queueSound_setEntry hs (by rw [he]; rfl)))
    fun s free queue _ => ⟨by rw [queue]; exact List.nodup_nil, fun i => by simp [queue, free, Entry.isQueued]⟩

/-! ### The write-back in flight (R3, R15, R16) -/

/-- With no write-back in flight at the memory port, no entry is IN-FLIGHT. -/
theorem State.WriteBackSound.inFlight_none {s : State} (hs : s.WriteBackSound)
    (hop : ∀ i a d, s.memPort.operation ≠ some (.ofWriteBack i a d)) (i : Slot) : (s.entry i).inFlight = none := by
  cases hb : (s.entry i).inFlight with
  | none => rfl
  | some b =>
    obtain ⟨a, d, op, -⟩ := hs.2 i b hb
    exact absurd op (hop i a d)

/-- An entry that is HELD while its write-back is in flight was regranted (R18). -/
theorem State.WriteBackSound.held_regranted {s : State} (hs : s.WriteBackSound) {i : Slot} {h : HeldEntry} {b : InFlight}
    (he : s.entry i = .held h) (hb : h.writeBack = some b) : b.regranted = true := by
  obtain ⟨a, d, -, form⟩ := hs.2 i b (by rw [he]; exact hb)
  cases hr : b.regranted with
  | true => rfl
  | false => exact nomatch he ▸ form hr

theorem writeBackSound_idle {s : State} (hop : ∀ i a d, s.memPort.operation ≠ some (.ofWriteBack i a d))
    (he : ∀ i, (s.entry i).inFlight = none) : s.WriteBackSound :=
  ⟨fun i a d h => absurd h (hop i a d), fun i b hb => by rw [he] at hb; cases hb⟩

/-- An entry is replaced, and was and is not IN-FLIGHT, or was IN-FLIGHT and is so regranted, at the same word. -/
theorem writeBackSound_setEntry {s : State} {i : Slot} {e : Entry} (hs : s.WriteBackSound)
    (he : (e.inFlight = none ∧ (s.entry i).inFlight = none) ∨
      ∃ b b', (s.entry i).inFlight = some b ∧ e.inFlight = some b' ∧ b'.written = b.written ∧ b'.regranted = true ∧
        e.address = (s.entry i).address) : (s.setEntry i e).WriteBackSound := by
  refine ⟨fun j a d op => ?_, fun j b hb => ?_⟩
  · obtain ⟨address, top, b, hb, ticket⟩ := hs.1 j a d op
    by_cases hj : j = i
    · subst hj
      rw [entry_setEntry_same]
      rcases he with ⟨-, he⟩ | ⟨b0, b', h0, h', written, -, same⟩
      · rw [he] at hb
        cases hb
      · obtain rfl : b0 = b := Option.some.inj (h0.symm.trans hb)
        exact ⟨same.trans address, top, b', h', written.trans ticket⟩
    · rw [entry_setEntry_other _ _ _ _ hj]
      exact ⟨address, top, b, hb, ticket⟩
  · by_cases hj : j = i
    · subst hj
      rw [entry_setEntry_same] at hb
      rcases he with ⟨he, -⟩ | ⟨b0, b', h0, h', -, regranted, -⟩
      · rw [he] at hb
        cases hb
      · obtain ⟨a, d, op, -⟩ := hs.2 j b0 h0
        obtain rfl : b' = b := Option.some.inj (h'.symm.trans hb)
        exact ⟨a, d, op, fun h => by rw [regranted] at h; cases h⟩
    · rw [entry_setEntry_other _ _ _ _ hj] at hb ⊢
      exact hs.2 j b hb

/-- A HELD entry is replaced by a HELD or RETIRING one of its word with its write-back state, perhaps regranted. -/
theorem writeBackSound_held {s : State} {i : Slot} {h : HeldEntry} {e : Entry} (hs : s.WriteBackSound)
    (he : s.entry i = .held h) (address : e.address = some h.address)
    (flight : e.inFlight = h.writeBack ∨ e.inFlight = h.writeBack.map InFlight.regrant) : (s.setEntry i e).WriteBackSound := by
  refine writeBackSound_setEntry hs ?_
  rw [he]
  cases hb : h.writeBack with
  | none => exact .inl ⟨by rcases flight with f | f <;> simp [f, hb], hb⟩
  | some b =>
    have regranted := hs.held_regranted he hb
    rcases flight with f | f
    · exact .inr ⟨b, b, hb, f.trans hb, rfl, regranted, address⟩
    · exact .inr ⟨b, b.regrant, hb, by rw [f, hb]; rfl, rfl, rfl, address⟩

theorem afterLoss_inFlight (h : HeldEntry) :
    h.afterLoss.inFlight = h.writeBack ∨ h.afterLoss.inFlight = h.writeBack.map InFlight.regrant := by
  unfold HeldEntry.afterLoss
  split
  · exact .inl rfl
  · exact .inr rfl

/-- At a completion of a write-back its entry ceases to be IN-FLIGHT, and no other entry was. -/
theorem writeBackSound_completed {s : State} {i : Slot} {a : PhysAddr} {d : Word} {e : Entry} (hs : s.WriteBackSound)
    (hop : s.memPort.operation = some (.ofWriteBack i a d)) (he : e.inFlight = none) :
    ((s.setOperation none).setEntry i e).WriteBackSound := by
  refine writeBackSound_idle nofun fun j => ?_
  by_cases hj : j = i
  · rw [hj, entry_setEntry_same, he]
  · rw [entry_setEntry_other _ _ _ _ hj, setOperation_entry]
    cases hb : (s.entry j).inFlight with
    | none => rfl
    | some b =>
      obtain ⟨a', d', op, -⟩ := hs.2 j b hb
      rw [hop] at op
      exact absurd (Operation.ofWriteBack.inj (Option.some.inj op)).1.symm hj

/-- A field of a word made of two parts that lies in the upper part. -/
theorem extract_upper {v w : Nat} (x : BitVec v) (y : BitVec w) (k len : Nat) :
    (x ++ y).extractLsb' (w + k) len = x.extractLsb' k len := by
  rw [BitVec.extractLsb'_append_eq_of_le (by omega), Nat.add_sub_cancel_left]

/-- A field of a word made of two parts that lies in the lower part. -/
theorem extract_lower {v w : Nat} (x : BitVec v) (y : BitVec w) {k len : Nat} (h : k + len ≤ w) :
    (x ++ y).extractLsb' k len = y.extractLsb' k len := BitVec.extractLsb'_append_eq_of_add_le h

theorem claimWord_fields (k : Ticket) (w : Payload) : (claimWord k w).extractLsb' 24 8 = 0 ∧
    (claimWord k w).extractLsb' 16 8 = k ∧ (claimWord k w).extractLsb' 0 16 = w :=
  ⟨(extract_upper ((0 : BitVec 8) ++ k) w 8 8).trans ((extract_upper 0 k 0 8).trans BitVec.extractLsb'_eq_self),
    (extract_upper ((0 : BitVec 8) ++ k) w 0 8).trans ((extract_lower 0 k le_rfl).trans BitVec.extractLsb'_eq_self),
    (extract_lower _ w le_rfl).trans BitVec.extractLsb'_eq_self⟩

theorem TableChange.writeBackSound {s t : State} (h : TableChange s t) (hs : s.WriteBackSound) : t.WriteBackSound := by
  cases h with
  | same table queue operation =>
    have entry : ∀ i, t.entry i = s.entry i := fun i => by simp only [State.entry, table]
    refine ⟨fun i a d op => ?_, fun i b hb => ?_⟩
    · rw [operation] at op
      rw [entry]
      exact hs.1 i a d op
    · rw [entry] at hb
      rw [operation, entry]
      exact hs.2 i b hb
  | allocate p a i _ he => exact writeBackSound_setEntry hs (.inl ⟨rfl, by rw [he]; rfl⟩)
  | mark i a p m m' he => exact writeBackSound_setEntry hs (.inl ⟨rfl, by rw [he]; rfl⟩)
  | freeFetch i a p m he => exact writeBackSound_setEntry hs (.inl ⟨rfl, by rw [he]; rfl⟩)
  | grant i a p q m w n he => exact writeBackSound_setEntry hs (.inl ⟨rfl, by rw [he]; rfl⟩)
  | list i h h' he c =>
    exact writeBackSound_held hs he (congrArg some c.address) (.inl c.writeBack)
  | lose i h v he => exact writeBackSound_held hs he (afterLoss_address h) (afterLoss_inFlight h)
  | revive p i r n he =>
    refine writeBackSound_setEntry (s := s) hs ?_
    rw [he]
    cases hb : r.writeBack with
    | none => exact .inl ⟨rfl, hb⟩
    | some b => exact .inr ⟨b, b.regrant, hb, rfl, rfl, rfl, rfl⟩
  | issue p work a g free =>
    exact writeBackSound_idle nofun (hs.inFlight_none (by simp [free]))
  | issueWriteBack i rest r free queue he =>
    have idle := hs.inFlight_none (by simp [free])
    obtain ⟨top, ticket, payload⟩ := claimWord_fields r.ticket r.payload
    refine ⟨fun j a d op => ?_, fun j b hb => ?_⟩
    · obtain ⟨rfl, rfl, rfl⟩ := Operation.ofWriteBack.inj (Option.some.inj op)
      rw [setOperation_entry, entry_setEntry_same]
      exact ⟨rfl, top, _, rfl, ticket.symm⟩
    · rw [setOperation_entry] at hb ⊢
      by_cases hj : j = i
      · subst hj
        rw [entry_setEntry_same] at hb ⊢
        obtain rfl := Option.some.inj hb
        refine ⟨_, _, rfl, fun _ => ?_⟩
        rw [ticket, payload]
      · rw [entry_setEntry_other _ _ _ _ hj, setQueue_entry, idle] at hb
        cases hb
  | endPort p work a g hop => exact writeBackSound_idle nofun (hs.inFlight_none (by simp [hop]))
  | giveUp p work a g g' hop => exact writeBackSound_idle nofun (hs.inFlight_none (by simp [hop]))
  | requeue i a d r b hop he => exact writeBackSound_completed hs hop rfl
  | written i a d r b e hop he hb form =>
    exact writeBackSound_completed hs hop (by rcases form with rfl | rfl <;> rfl)
  | writtenHeld i a d h hop he => exact writeBackSound_completed hs hop rfl
  | writtenOther i a d hop he =>
    obtain ⟨-, -, b, hb, -⟩ := hs.1 i a d hop
    rw [he] at hb
    cases hb
  | dropHead => exact hs

theorem writeBackSound_kept : KeptByStep fun s => s.WriteBackSound :=
  keptByStep_of_tableChanges (fun _ _ h => h.writeBackSound)
    (fun _ _ _ _ _ he hs => writeBackSound_setEntry hs (.inl ⟨rfl, by rw [he]; rfl⟩))
    (takeTick_kept_of_tableChanges (fun _ _ h => h.writeBackSound)
      (ticked_kept fun s i h he hs => writeBackSound_held hs he rfl (.inl rfl)))
    fun s free _ idle => writeBackSound_idle (by simp [idle]) fun i => by rw [free]; rfl

/-! ### The statement -/

/-- Settles O55: each invariant is kept by every change that the table sees, and by ticks and part reset. -/
theorem everyStepKeepsTableAndQueueSound : Obligations.EveryStepKeepsTableAndQueueSound :=
  ⟨⟨addressesDistinct_kept, listsSound_kept, fun _ hs i => waiters_length_le (hs i)⟩, queueSound_kept, writeBackSound_kept⟩

end Sys2Proof.Machine
end

section
/-! Every step keeps the bounds and forms of the other blocks, and leaves no request waiting where it would be taken (R81, R110,
R123, R149, R164). -/

namespace Sys2Proof.Machine

/-! ### Maps, time base and bank, which no elementary change touches -/

theorem takeTick_within (s : State) (first : Option Expiry) : Within s (s.takeTick first) := by
  refine takeTick_kept (P := Within s) (fun _ _ h hs => hs.trans h.within) (fun u hs => hs.trans ?_) s first (.refl s)
  exact forSlots_within (f := State.tickAt) (fun t i => ⟨rfl, rfl, rfl, rfl, rfl, rfl, rfl⟩) u

theorem mapsSound_kept : KeptByStep fun s => s.MapsSound := by
  have same : ∀ {s t : State}, t.maps = s.maps → s.MapsSound → t.MapsSound := fun {s t} maps hs p => by
    rw [State.map, maps]
    exact hs p
  refine keptByStep_of_changes (fun s t h => same h.within.maps) (fun s t h hs => ?_)
    (fun s first => same (takeTick_within s first).maps) fun s _ p => ?_
  · cases h with
    | setMap p m sound =>
      intro q
      by_cases hq : q = p
      · rw [hq, map_setMap_same]
        exact sound
      · rw [map_setMap_other _ _ _ _ hq]
        exact hs q
    | _ => exact hs
  · have open_mode : s.assertPartReset.map p = .openMode := by
      show (Vector.replicate 4 PortMap.openMode)[p.val] = .openMode
      simp
    rw [open_mode]
    rfl

theorem dividerSound_kept : KeptByStep fun s => s.DividerSound := by
  have same : ∀ {s t : State}, Within s t → s.DividerSound → t.DividerSound := fun {s t} h hs => by
    rw [State.DividerSound, h.divider, h.divisor]
    exact hs
  refine keptByStep_of_changes (fun s t h => same h.within) (fun s t h hs => ?_)
    (fun s first => same (takeTick_within s first)) fun s _ => ?_
  · cases h with
    | setTime d n sound => exact sound hs
    | _ => exact hs
  · show 1 ≤ (10 : Ticks).toNat ∧ (10 : Ticks).toNat ≤ (10 : Ticks).toNat
    decide

theorem assertPartReset_bank (s : State) : s.assertPartReset.bank = s.abandon.bank := rfl

theorem abandon_bankSound (s : State) (hs : s.BankSound) : s.abandon.BankSound := by
  unfold State.abandon
  split
  · show bankWf (if _ then _ else _) = true
    split
    · exact writeWord_wf _ _ _ _ hs
    · exact hs
  · exact hs

theorem bankSound_kept : KeptByStep fun s => s.BankSound := by
  have same : ∀ {s t : State}, t.bank = s.bank → s.BankSound → t.BankSound := fun {s t} bank hs => by
    rw [State.BankSound, bank]
    exact hs
  refine keptByStep_of_changes (fun s t h => same h.within.bank) (fun s t h hs => ?_)
    (fun s first => same (takeTick_within s first).bank) fun s hs => abandon_bankSound s hs
  cases h with
  | setBank m sound => exact sound hs
  | _ => exact hs

/-! ### Notice queues and the log (R110, R149) -/

theorem buffersBounded_same {s t : State} (hs : s.BuffersBounded) (notices : t.notices = s.notices) (log : t.log = s.log) :
    t.BuffersBounded := by
  refine ⟨fun p => ?_, log ▸ hs.2⟩
  rw [State.notice, notices]
  exact hs.1 p

theorem buffersBounded_notify {s : State} (hs : s.BuffersBounded) (p : Port) (n : Notice) : (s.notify p n).BuffersBounded := by
  refine ⟨fun q => ?_, by rw [notify_log]; exact hs.2⟩
  rw [notify_notice]
  split
  · exact arrive_length (hs.1 q)
  · exact hs.1 q

theorem buffersBounded_logFault {s : State} (hs : s.BuffersBounded) (r : FaultRecord) : (s.logFault r).BuffersBounded :=
  ⟨hs.1, append_length hs.2⟩

theorem buffersBounded_setNotice {s : State} (hs : s.BuffersBounded) (p : Port) {n : NoticeUnit} (hn : n.queue.length ≤ 8) :
    (s.setNotice p n).BuffersBounded := by
  refine ⟨fun q => ?_, hs.2⟩
  rw [notice_setNotice]
  split
  · exact hn
  · exact hs.1 q

theorem buffersBounded_lose {s : State} (hs : s.BuffersBounded) (cause : LossCause) (i : Slot) (h : HeldEntry) :
    (s.lose cause i h).BuffersBounded := by
  have told : ∀ {t : State} (other k), t.BuffersBounded → (t.tellFormer cause h other k).BuffersBounded := fun other k ht => by
    cases cause with
    | expiry => exact buffersBounded_logFault (buffersBounded_notify ht ..) _
    | revoke => exact buffersBounded_notify ht ..
    | _ => exact ht
  unfold State.lose
  split
  · refine told _ _ ?_
    simp only [State.retire]
    split <;> exact hs
  · refine told _ _ ?_
    unfold State.tellNew
    split
    · exact buffersBounded_same hs rfl rfl
    · exact buffersBounded_notify (s := s.setEntry i _) hs ..

theorem buffersBounded_loseAll {s : State} (hs : s.BuffersBounded) (cause : LossCause) (p : Port) :
    (s.loseAll cause p).BuffersBounded := by
  unfold State.loseAll
  exact forSlots_induct (fun t => t.BuffersBounded) (State.loseAt cause p) (fun t i ht => by
    unfold State.loseAt
    split
    · split
      · exact buffersBounded_lose ht ..
      · exact ht
    · exact ht) s hs

theorem buffersBounded_removeWaiters {s : State} (hs : s.BuffersBounded) (p : Port) : (s.removeWaiters p).BuffersBounded := by
  unfold State.removeWaiters
  exact forSlots_induct (fun t => t.BuffersBounded) (State.removeAt p) (fun t i ht => by
    unfold State.removeAt
    split
    · exact buffersBounded_same ht rfl rfl
    · exact ht) s hs

theorem withdraw_buffers (s : State) (t : Transaction) : (s.withdraw t).notices = s.notices ∧ (s.withdraw t).log = s.log := by
  unfold State.withdraw
  split
  · split <;> exact ⟨rfl, rfl⟩
  · exact ⟨rfl, rfl⟩

theorem orphan_buffers (s : State) (a : PhysAddr) (f : OrphanMark → OrphanMark) :
    (s.orphan a f).notices = s.notices ∧ (s.orphan a f).log = s.log := by
  unfold State.orphan
  split <;> exact ⟨rfl, rfl⟩

theorem endByReset_buffers (s : State) (p : Port) : (s.endByReset p).notices = s.notices ∧ (s.endByReset p).log = s.log := by
  unfold State.endByReset
  split
  · exact ⟨rfl, rfl⟩
  · exact withdraw_buffers s _
  · split
    · exact orphan_buffers s _ _
    · exact ⟨rfl, rfl⟩
  · exact ⟨rfl, rfl⟩

theorem buffersBounded_endByFence {s : State} (hs : s.BuffersBounded) (p : Port) : (s.endByFence p).BuffersBounded := by
  have off : ∀ {t : State}, t.BuffersBounded → ∀ x, (t.fenceOff p x).BuffersBounded := fun ht x =>
    buffersBounded_same (buffersBounded_logFault ht _) rfl rfl
  unfold State.endByFence
  split
  · exact hs
  next t _ => exact off (buffersBounded_same hs (withdraw_buffers s t).1 (withdraw_buffers s t).2) t
  next t _ =>
    split
    · exact buffersBounded_same hs (orphan_buffers s _ _).1 (orphan_buffers s _ _).2
    · exact hs
  · exact off hs _

theorem buffersBounded_assertReset {s : State} (hs : s.BuffersBounded) {p : Port} (h : (s.port p).resetAsserted = false) :
    (s.assertReset p).BuffersBounded := by
  have ended := endByReset_buffers (s.shut p) p
  have bounded : ((s.shut p).endByReset p).BuffersBounded := buffersBounded_same (s := s.shut p) hs ended.1 ended.2
  rw [assertReset_eq h]
  exact buffersBounded_loseAll (buffersBounded_removeWaiters (buffersBounded_setNotice (n := NoticeUnit.empty) bounded p (Nat.zero_le 8)) p) .offline p

theorem buffersBounded_fence {s : State} (hs : s.BuffersBounded) (p : Port) : (s.fencePort p false).BuffersBounded := by
  rw [fencePort_eq]
  exact buffersBounded_removeWaiters (buffersBounded_endByFence (s := s.raiseFence p) hs p) p

theorem buffersBounded_fetchError {s : State} (hs : s.BuffersBounded) (p : Port) (a : PhysAddr) :
    (s.fetchError p a).BuffersBounded := by
  have freed : ∀ i, (s.freeSlot i).BuffersBounded := fun i => hs
  unfold State.fetchError
  split
  · exact buffersBounded_same (buffersBounded_logFault (freed _) _) rfl rfl
  · exact buffersBounded_same (buffersBounded_logFault (buffersBounded_logFault (freed _) _) _) rfl rfl
  · exact buffersBounded_logFault (freed _) _
  · exact freed _
  · exact hs

theorem buffersBounded_fetchData {s : State} (hs : s.BuffersBounded) (p : Port) (a : PhysAddr) (w : Word) :
    (s.fetchData p a w).BuffersBounded := by
  unfold State.fetchData
  split
  · exact buffersBounded_same hs rfl rfl
  · exact buffersBounded_same (buffersBounded_logFault (s := s.freeSlot _) hs _) rfl rfl
  · exact hs
  · exact hs
  · exact hs

theorem buffersBounded_writeBackError {s : State} (hs : s.BuffersBounded) (i : Slot) (a : PhysAddr) (k : Ticket) :
    (s.writeBackError i a k).BuffersBounded := by
  have logged := buffersBounded_logFault hs
    { kind := .writeback, port := none, access := .write, logical := none, physical := some a, ticket := some k }
  simp only [State.writeBackError]
  split
  · split
    · split <;> exact buffersBounded_same logged rfl rfl
    · exact logged
  · exact logged
  · exact logged

theorem writeBackDone_buffers (s : State) (i : Slot) :
    (s.writeBackDone i).notices = s.notices ∧ (s.writeBackDone i).log = s.log := by
  unfold State.writeBackDone
  split
  · split
    · split <;> exact ⟨rfl, rfl⟩
    · exact ⟨rfl, rfl⟩
  · exact ⟨rfl, rfl⟩
  · exact ⟨rfl, rfl⟩

theorem grantWriteBack_buffers (s : State) : s.grantWriteBack.notices = s.notices ∧ s.grantWriteBack.log = s.log := by
  unfold State.grantWriteBack
  split
  · exact ⟨rfl, rfl⟩
  · dsimp only
    split <;> exact ⟨rfl, rfl⟩

theorem revive_buffers (s : State) (p : Port) (f : ClaimFields) (i : Slot) (r : RetiringEntry) :
    (s.revive p f i r).notices = s.notices ∧ (s.revive p f i r).log = s.log := by
  simp only [State.revive]
  split <;> exact ⟨rfl, rfl⟩

theorem Change.buffersBounded {s t : State} (h : Change s t) (hs : s.BuffersBounded) : t.BuffersBounded := by
  cases h with
  | logFault r => exact buffersBounded_logFault hs r
  | notify p n => exact buffersBounded_notify hs p n
  | setNotice p n _ shorter => exact buffersBounded_setNotice hs p (shorter.trans (hs.1 p))
  | setLog l shorter => exact ⟨hs.1, shorter.trans hs.2⟩
  | revive p f i r => exact buffersBounded_same hs (revive_buffers s p f i r).1 (revive_buffers s p f i r).2
  | lose cause i h => exact buffersBounded_lose hs cause i h
  | grantWriteBack => exact buffersBounded_same hs (grantWriteBack_buffers s).1 (grantWriteBack_buffers s).2
  | fetchData p a g w => exact buffersBounded_fetchData (s := s.setOperation none) hs p a w
  | fetchError p a => exact buffersBounded_fetchError (s := s.setOperation none) hs p a
  | writeBackDone i =>
    exact buffersBounded_same (s := s.setOperation none) hs (writeBackDone_buffers ..).1 (writeBackDone_buffers ..).2
  | writeBackError i a d => exact buffersBounded_writeBackError (s := s.setOperation none) hs i a _
  | assertReset p online => exact buffersBounded_assertReset hs online
  | fence p => exact buffersBounded_fence hs p
  | _ => exact buffersBounded_same hs rfl rfl

theorem assertPartReset_notice (s : State) (p : Port) : s.assertPartReset.notice p = NoticeUnit.empty := by
  show (Vector.replicate 4 NoticeUnit.empty)[p.val] = NoticeUnit.empty
  simp

theorem buffersBounded_kept : KeptByStep fun s => s.BuffersBounded := by
  refine keptByStep_of_changes (fun s t h => h.buffersBounded) (fun s t h hs => ?_)
    (takeTick_kept (fun s t h => h.buffersBounded) fun s hs => ?_) fun s _ => ⟨fun p => ?_, Nat.zero_le _⟩
  · cases h <;> exact buffersBounded_same hs rfl rfl
  · exact forSlots_induct (fun t => t.BuffersBounded) State.tickAt (fun t i ht => buffersBounded_same ht rfl rfl) s hs
  · rw [assertPartReset_notice]
    exact Nat.zero_le _

/-! ### Quiesce (R164) -/

theorem not_allDrained_iff {s : State} :
    s.allDrained = false ↔ ∃ p, (s.port p).phase ≠ .idle ∧ (s.port p).phase.isStalled = false := by
  rw [← Bool.not_eq_true, allDrained_iff]
  push Not
  refine exists_congr fun p => and_congr_right fun _ => ?_
  cases (s.port p).phase <;> simp [Phase.isStalled]

theorem drainSound_iff {s : State} : s.DrainSound ↔
    (s.quiesce = .draining ↔ s.link.process.isSome = true) ∧ (s.quiesce = .draining → s.allDrained = false) := by
  rw [State.DrainSound, not_allDrained_iff]

theorem drainSound_of_not_draining {s : State} (quiesce : s.quiesce ≠ .draining) (idle : s.link.process = none) :
    s.DrainSound :=
  drainSound_iff.2 ⟨by simp [quiesce, idle], fun h => absurd h quiesce⟩

/-- An event that began in a sound state leaves, at its end, a drain only where some port is not drained. -/
theorem drainSound_endEvent {s before : State} (hs : before.DrainSound) (quiesce : s.quiesce = before.quiesce)
    (process : s.link.process = before.link.process) : (s.endEvent before).DrainSound := by
  obtain ⟨drains, busy⟩ := drainSound_iff.1 hs
  by_cases draining : before.quiesce = .draining
  · obtain ⟨seq, hseq⟩ := Option.isSome_iff_exists.1 (drains.1 draining)
    cases drained : s.allDrained with
    | true =>
      rw [endEvent_drain (busy draining) (process.trans hseq) (quiesce.trans draining) drained]
      exact drainSound_of_not_draining nofun rfl
    | false =>
      have waits : s.takeReady before = s := takeReady_nil (ready_eq_nil.2 fun p hp => by
        rw [takes_iff, quiesce, draining] at hp
        exact nomatch hp.2.2.1)
      rw [endEvent_eq (.inr (.inl drained)), waits]
      exact drainSound_iff.2 ⟨by rw [quiesce, process]; exact drains, fun _ => drained⟩
  · have idle : before.link.process = none := by
      cases hp : before.link.process with
      | none => rfl
      | some _ => exact absurd (drains.2 (by rw [hp]; rfl)) draining
    rw [endEvent_eq (.inr (.inr (.inl (quiesce ▸ draining))))]
    have within := (takeReady_changes s before).within
    exact drainSound_of_not_draining (by rw [within.quiesce, quiesce]; exact draining)
      (within.process.trans (process.trans idle))

theorem Ran.drainSound {c : Instr} {s t : State} (h : Ran c s t) (hs : s.DrainSound) : t.DrainSound := by
  obtain ⟨drains, busy⟩ := drainSound_iff.1 hs
  cases h with
  | event changes => exact drainSound_endEvent hs changes.within.quiesce changes.within.process
  | quiet changes _ drained =>
    refine drainSound_iff.2 ⟨by rw [changes.within.quiesce, changes.within.process]; exact drains, fun draining => ?_⟩
    rw [changes.within.quiesce] at draining
    refine Bool.eq_false_iff.2 fun all => ?_
    rw [busy draining] at drained
    exact absurd (drained draining all) (by simp)
  | @waits p r =>
    have phases : ∀ q, ((s.setPresented p (some r)).port q).phase = (s.port q).phase := fun q => by
      by_cases hq : q = p <;> simp [hq]
    exact drainSound_iff.2 ⟨drains, fun draining => (allDrained_congr phases).trans (busy draining)⟩
  | @completed op u m t _ _ before _ after =>
    exact drainSound_endEvent hs (after.within.quiesce.trans before.within.quiesce)
      (after.within.process.trans before.within.process)
  | tick first =>
    have within := takeTick_within (s.setDivider s.divisor) first
    exact drainSound_endEvent hs within.quiesce within.process
  | period => exact hs
  | partReset => exact drainSound_of_not_draining nofun rfl
  | released => exact drainSound_endEvent hs rfl rfl
  | @setMap p m l _ process =>
    exact drainSound_iff.2 ⟨by rw [setLink_link, process]; exact drains, busy⟩
  | @setTime d l _ process =>
    exact drainSound_iff.2 ⟨by rw [setLink_link, process]; exact drains, busy⟩
  | cleared _ _ _ process => exact drainSound_iff.2 ⟨by rw [setLink_link, process]; exact drains, busy⟩
  | quiesced _ idle => exact drainSound_of_not_draining nofun idle
  | draining _ not_drained busy => exact drainSound_iff.2 ⟨⟨fun _ => busy, fun _ => rfl⟩, fun _ => not_drained⟩
  | @resumed l _ idle =>
    rw [endEvent_eq (.inr (.inr (.inl (by simp))))]
    have within := (takeReady_changes ((s.setQuiesce .running).setLink l) s).within
    exact drainSound_of_not_draining (by rw [within.quiesce]; simp) (within.process.trans idle)

/-- What the cases of a command keep, every step keeps, where the commands that wait play no part. -/
theorem keptByStep_of_ran {P : State → Prop} (ran : ∀ c s t, Ran c s t → P s → P t)
    (pending : ∀ (s : State) l, P s → P { s with pending := l }) : KeptByStep P := by
  intro s t hs h
  unfold step at h
  split at h
  · unfold State.idle at h
    split at h
    · exact ran _ _ _ (exec_ran h) hs
    · exact Host.Outcome.next.inj h ▸ hs
  next c rest _ => exact ran _ _ _ (exec_ran h) (pending s rest hs)

theorem drainSound_kept : KeptByStep fun s => s.DrainSound :=
  keptByStep_of_ran (fun _ _ _ h => h.drainSound) fun _ _ hs => hs

/-- Settles O58: the blocks are bounded by what the changes do to them, and a drain by what ends an event. -/
theorem everyStepKeepsBlockBounds : Obligations.EveryStepKeepsBlockBounds :=
  ⟨buffersBounded_kept, mapsSound_kept, dividerSound_kept, drainSound_kept, bankSound_kept⟩

end Sys2Proof.Machine
end

section
/-! What changes do to the port units, and what a port's leaving does to every entry: the layer under the invariants that speak of
ports. -/

namespace Sys2Proof.Machine

/-! ### Pins: the fence flag, the reset input and the presented request of a port -/

/-- The units of a port before and after agree in the fence flag, the reset input and the presented request. -/
structure PinsSame (u v : PortUnit) : Prop where
  fence : v.fence = u.fence
  reset : v.resetAsserted = u.resetAsserted
  presented : v.presented = u.presented

theorem PinsSame.refl (u : PortUnit) : PinsSame u u := ⟨rfl, rfl, rfl⟩

theorem PinsSame.trans {u v w : PortUnit} (h : PinsSame u v) (g : PinsSame v w) : PinsSame u w :=
  ⟨g.fence.trans h.fence, g.reset.trans h.reset, g.presented.trans h.presented⟩

theorem pinsSame_of_eq {u v : PortUnit} (h : v = u) : PinsSame u v := h ▸ .refl u

theorem setPhase_pins (s : State) (p : Port) (ph : Phase) (q : Port) : PinsSame (s.port q) ((s.setPhase p ph).port q) := by
  rw [port_setPhase]
  split <;> exact ⟨rfl, rfl, rfl⟩

theorem reply_pins (s : State) (p : Port) (r : Reply) (q : Port) : PinsSame (s.port q) ((s.reply p r).port q) := by
  rw [port_reply]
  split <;> exact ⟨rfl, rfl, rfl⟩

theorem finish_pins (s : State) (p : Port) (r : Reply) (q : Port) : PinsSame (s.port q) ((s.finish p r).port q) :=
  (setPhase_pins s p .idle q).trans (reply_pins ..)

theorem lose_pins (s : State) (cause : LossCause) (i : Slot) (h : HeldEntry) (q : Port) :
    PinsSame (s.port q) ((s.lose cause i h).port q) := by
  rw [lose_port]
  split
  · exact .refl _
  · split <;> exact ⟨rfl, rfl, rfl⟩

/-- What the action at every slot does to a port's pins, all the actions do. -/
theorem forSlots_pins {f : State → Slot → State} (q : Port) (hf : ∀ s i, PinsSame (s.port q) ((f s i).port q)) (s : State) :
    PinsSame (s.port q) ((s.forSlots f).port q) :=
  forSlots_induct (fun t => PinsSame (s.port q) (t.port q)) f (fun t i h => h.trans (hf t i)) s (.refl _)

theorem loseAll_pins (s : State) (cause : LossCause) (p q : Port) : PinsSame (s.port q) ((s.loseAll cause p).port q) := by
  unfold State.loseAll
  refine forSlots_pins (f := State.loseAt cause p) q (fun t i => ?_) s
  unfold State.loseAt
  split
  · split
    · exact lose_pins ..
    · exact .refl _
  · exact .refl _

/-- The removal of waiter records changes the table alone. -/
theorem removeWaiters_frame (s : State) (p : Port) : { s.removeWaiters p with table := s.table } = s := by
  unfold State.removeWaiters
  refine forSlots_same (fun t : State => { t with table := s.table }) (State.removeAt p) (fun t i => ?_) s
  unfold State.removeAt
  split <;> rfl

theorem removeWaiters_ports (s : State) (p : Port) : (s.removeWaiters p).ports = s.ports := by
  simpa only using congrArg State.ports (removeWaiters_frame s p)

theorem removeWaiters_port (s : State) (p q : Port) : (s.removeWaiters p).port q = s.port q := by
  simp only [State.port, removeWaiters_ports]

theorem removeWaiters_notice (s : State) (p q : Port) : (s.removeWaiters p).notice q = s.notice q := by
  have : (s.removeWaiters p).notices = s.notices := by
    simpa only using congrArg State.notices (removeWaiters_frame s p)
  simp only [State.notice, this]

/-- A withdrawal from the arbiter changes the table alone. -/
theorem withdraw_frame (s : State) (t : Transaction) : { s.withdraw t with table := s.table } = s := by
  unfold State.withdraw
  split
  · split <;> rfl
  · rfl

theorem withdraw_port (s : State) (t : Transaction) (q : Port) : (s.withdraw t).port q = s.port q := by
  have : (s.withdraw t).ports = s.ports := (congrArg State.ports (withdraw_frame s t) :)
  simp only [State.port, this]

/-- An orphan mark changes the table alone. -/
theorem orphan_frame (s : State) (a : PhysAddr) (f : OrphanMark → OrphanMark) :
    { s.orphan a f with table := s.table } = s := by
  unfold State.orphan
  split <;> rfl

theorem orphan_port (s : State) (a : PhysAddr) (f : OrphanMark → OrphanMark) (q : Port) :
    (s.orphan a f).port q = s.port q := by
  have : (s.orphan a f).ports = s.ports := (congrArg State.ports (orphan_frame s a f) :)
  simp only [State.port, this]

/-- The assertion of a reset input leaves its port IDLE, and the other ports' units alone. -/
theorem endByReset_port (s : State) (p q : Port) :
    (s.endByReset p).port q = if q = p then { s.port q with phase := .idle } else s.port q := by
  unfold State.endByReset
  split
  next idle =>
    split
    next h =>
      subst h
      rw [← idle]
    · rfl
  · rw [port_setPhase, withdraw_port]
  · split
    · rw [port_setPhase, orphan_port]
    · rw [port_setPhase]
      rfl
  · rw [port_setPhase]

/-- A fence ends a QUEUED or STALLED transaction with FAULT, and leaves every other unit alone (R131). -/
theorem endByFence_port (s : State) (p q : Port) :
    (s.endByFence p).port q =
      match (s.port p).phase with
      | .queued t | .stalled t =>
        if q = p then { s.port q with phase := .idle, replies := (s.port q).replies ++ [t.request.direction.fault] } else s.port q
      | _ => s.port q := by
  cases phase : (s.port p).phase with
  | idle => simp only [State.endByFence, phase]
  | queued t => simp only [State.endByFence, phase, State.fenceOff, port_finish, logFault_port, withdraw_port]
  | inMemory t =>
    simp only [State.endByFence, phase]
    split
    · rw [orphan_port]
    · rfl
  | stalled t => simp only [State.endByFence, phase, State.fenceOff, port_finish, logFault_port]

theorem shut_port (s : State) (p q : Port) :
    (s.shut p).port q = if q = p then { s.port q with resetAsserted := true, presented := none } else s.port q := by
  rw [State.shut, port_setPort]
  by_cases h : q = p
  · subst h; simp
  · simp [h, Ne.symm h]

theorem raiseFence_port (s : State) (p q : Port) :
    (s.raiseFence p).port q = if q = p then { s.port q with fence := true } else s.port q := by
  rw [State.raiseFence, port_setPort]
  by_cases h : q = p
  · subst h; simp
  · simp [h, Ne.symm h]

/-- The fence flag of its port is all that a fence changes of the pins. -/
theorem fence_port_pins (s : State) (p q : Port) :
    PinsSame { s.port q with fence := (s.port q).fence || decide (q = p) } ((s.fencePort p false).port q) := by
  rw [fencePort_eq, removeWaiters_port, endByFence_port]
  by_cases h : q = p <;> split <;> simp only [raiseFence_port, h, if_true, if_false, decide_true, decide_false, Bool.or_true,
    Bool.or_false] <;> exact ⟨rfl, rfl, rfl⟩

theorem assertReset_port_pins {s : State} {p : Port} (h : (s.port p).resetAsserted = false) (q : Port) :
    PinsSame (if q = p then { s.port q with resetAsserted := true, presented := none } else s.port q)
      ((s.assertReset p).port q) := by
  rw [assertReset_eq h]
  refine PinsSame.trans ?_ (loseAll_pins ..)
  rw [removeWaiters_port, setNotice_port, endByReset_port, shut_port]
  split <;> exact ⟨rfl, rfl, rfl⟩

theorem fetchData_pins (s : State) (p : Port) (a : PhysAddr) (w : Word) (q : Port) :
    PinsSame (s.port q) ((s.fetchData p a w).port q) := by
  unfold State.fetchData
  split
  · exact finish_pins ..
  · exact finish_pins ..
  · exact .refl _
  · exact .refl _
  · exact .refl _

theorem fetchError_pins (s : State) (p : Port) (a : PhysAddr) (q : Port) :
    PinsSame (s.port q) ((s.fetchError p a).port q) := by
  unfold State.fetchError
  split
  · exact finish_pins ..
  · exact finish_pins ..
  · exact .refl _
  · exact .refl _
  · exact .refl _

theorem writeBackDone_ports (s : State) (i : Slot) : (s.writeBackDone i).ports = s.ports := by
  unfold State.writeBackDone
  split
  · split
    · split <;> rfl
    · rfl
  · rfl
  · rfl

theorem writeBackError_ports (s : State) (i : Slot) (a : PhysAddr) (k : Ticket) :
    (s.writeBackError i a k).ports = s.ports := by
  simp only [State.writeBackError]
  split
  · split
    · split <;> rfl
    · rfl
  · rfl
  · rfl

theorem grantWriteBack_ports (s : State) : s.grantWriteBack.ports = s.ports := by
  unfold State.grantWriteBack
  split
  · rfl
  · dsimp only
    split <;> rfl

/-- A revival answers its port and changes no other unit. -/
theorem revive_port (s : State) (p : Port) (f : ClaimFields) (i : Slot) (r : RetiringEntry) (q : Port) :
    (s.revive p f i r).port q =
      if q = p then { s.port q with replies := (s.port q).replies ++ [.data (replyWord .granted p 0 (r.ticket + 1) r.payload)] }
      else s.port q := by
  cases hw : r.writeBack.isNone <;> simp only [State.revive, port_reply, hw, Bool.false_eq_true, if_false, if_true] <;>
    split <;> rfl

theorem port_eq_of_ports {s t : State} (h : t.ports = s.ports) (q : Port) : t.port q = s.port q := by
  simp only [State.port, h]

/-- What a change does to the pins of a port: nothing, or a request is taken, or its port's flag or input is changed. -/
theorem Change.pins {s t : State} (h : Change s t) (q : Port) : PinsSame (s.port q) (t.port q) ∨
    t = s.setPresented q none ∨ t = s.unfencePort q ∨ t = s.deassertReset q ∨
    (t = s.assertReset q ∧ (s.port q).resetAsserted = false) ∨ t = s.fencePort q false := by
  have other : ∀ {p : Port} {u : PortUnit}, q ≠ p → PinsSame (s.port q) ((s.setPort p u).port q) := fun hq =>
    pinsSame_of_eq (port_setPort_other _ _ _ _ hq)
  cases h with
  | unpresent p =>
    by_cases hq : q = p
    · subst hq
      exact .inr (.inl rfl)
    · exact .inl (other hq)
  | reply => exact .inl (reply_pins ..)
  | notify => exact .inl (pinsSame_of_eq (notify_port ..))
  | clearFence p =>
    by_cases hq : q = p
    · subst hq
      exact .inr (.inr (.inl rfl))
    · exact .inl (other hq)
  | clearReset p =>
    by_cases hq : q = p
    · subst hq
      exact .inr (.inr (.inr (.inl rfl)))
    · exact .inl (other hq)
  | queue => exact .inl (setPhase_pins ..)
  | allocate => exact .inl (setPhase_pins ..)
  | stall => exact .inl (setPhase_pins ..)
  | convert => exact .inl (setPhase_pins ..)
  | revive p f i r =>
    refine .inl ?_
    rw [revive_port]
    split <;> exact ⟨rfl, rfl, rfl⟩
  | lose => exact .inl (lose_pins ..)
  | timeOut => exact .inl (finish_pins ..)
  | issue => exact .inl (setPhase_pins ..)
  | refuseGrant => exact .inl (finish_pins ..)
  | grantWriteBack => exact .inl (pinsSame_of_eq (port_eq_of_ports (grantWriteBack_ports s) q))
  | returned => exact .inl (finish_pins (s.setOperation none) ..)
  | fetchData => exact .inl (fetchData_pins (s.setOperation none) ..)
  | fetchError => exact .inl (fetchError_pins (s.setOperation none) ..)
  | writeBackDone => exact .inl (pinsSame_of_eq (port_eq_of_ports (writeBackDone_ports (s.setOperation none) _) q))
  | writeBackError => exact .inl (pinsSame_of_eq (port_eq_of_ports (writeBackError_ports (s.setOperation none) ..) q))
  | assertReset p online =>
    by_cases hq : q = p
    · subst hq
      exact .inr (.inr (.inr (.inr (.inl ⟨rfl, online⟩))))
    · have pins := assertReset_port_pins online q
      rw [if_neg hq] at pins
      exact .inl pins
  | fence p =>
    by_cases hq : q = p
    · subst hq
      exact .inr (.inr (.inr (.inr (.inr rfl))))
    · refine .inl ?_
      have pins := fence_port_pins s p q
      rw [decide_eq_false hq, Bool.or_false] at pins
      exact pins
  | _ => exact .inl (.refl _)

/-- No change presents a request. -/
theorem Change.presented_none {s t : State} (h : Change s t) (q : Port) (none_presented : (s.port q).presented = none) :
    (t.port q).presented = none := by
  rcases h.pins q with pins | e | e | e | ⟨e, online⟩ | e
  · exact pins.presented.trans none_presented
  · simp [e]
  · simpa [e, State.unfencePort] using none_presented
  · simpa [e, State.deassertReset] using none_presented
  · have pins := assertReset_port_pins online q
    rw [if_pos rfl] at pins
    exact e ▸ pins.presented
  · exact e ▸ (fence_port_pins s q q).presented.trans none_presented

/-! ### Every entry after a port has left the lists, and after it has lost its claims -/

theorem removeAt_entry (p : Port) (s : State) (i : Slot) : (State.removeAt p s i).entry i = (s.entry i).afterLeaving p false := by
  unfold State.removeAt
  cases he : s.entry i <;> simp [Entry.afterLeaving, he, without]

theorem removeAt_entry_other (p : Port) (s : State) {i j : Slot} (hj : j ≠ i) : (State.removeAt p s i).entry j = s.entry j := by
  unfold State.removeAt
  split <;> simp [hj]

theorem removeWaiters_entry (s : State) (p : Port) (j : Slot) : (s.removeWaiters p).entry j = (s.entry j).afterLeaving p false :=
  forSlots_entry (State.removeAt p) (fun e => e.afterLeaving p false) (removeAt_entry p) (fun s _ _ => removeAt_entry_other p s) s j

/-- What an entry becomes when a port that is on no list loses it. -/
def Entry.lostBy (e : Entry) (p : Port) : Entry :=
  match e with
  | .held h => if h.holder = p then h.afterLoss else .held h
  | e => e

theorem loseAt_entry (cause : LossCause) (p : Port) (s : State) (i : Slot) :
    (State.loseAt cause p s i).entry i = (s.entry i).lostBy p := by
  unfold State.loseAt
  cases he : s.entry i with
  | held h =>
    simp only [Entry.lostBy]
    split
    · exact lose_entry ..
    · exact he
  | _ => exact he

theorem loseAt_entry_other (cause : LossCause) (p : Port) (s : State) {i j : Slot} (hj : j ≠ i) :
    (State.loseAt cause p s i).entry j = s.entry j := by
  unfold State.loseAt
  split
  · split
    · exact lose_entry_other _ _ _ _ _ hj
    · rfl
  · rfl

theorem loseAll_entry (s : State) (cause : LossCause) (p : Port) (j : Slot) :
    (s.loseAll cause p).entry j = (s.entry j).lostBy p :=
  forSlots_entry (State.loseAt cause p) (fun e => e.lostBy p) (loseAt_entry cause p)
    (fun s _ _ => loseAt_entry_other cause p s) s j

theorem afterLeaving_lostBy (e : Entry) (p : Port) : (e.afterLeaving p false).lostBy p = e.afterLeaving p true := by
  cases e with
  | held h => simp [Entry.afterLeaving, Entry.lostBy]
  | _ => rfl

theorem leave_entry (s : State) (cause : LossCause) (p : Port) (j : Slot) :
    ((s.removeWaiters p).loseAll cause p).entry j = (s.entry j).afterLeaving p true := by
  rw [loseAll_entry, removeWaiters_entry, afterLeaving_lostBy]

theorem enrolled_afterLoss {h : HeldEntry} {q : Port} (hq : enrolled h.waiters q = false) :
    enrolled h.afterLoss.waiters q = false := by
  unfold HeldEntry.afterLoss
  split
  · rfl
  next w rest hw =>
    rw [enrolled_eq_false] at hq ⊢
    exact fun v hv => hq v (by rw [hw]; exact List.mem_cons_of_mem _ hv)

theorem heldBy_afterLoss {h : HeldEntry} {q : Port} (hq : enrolled h.waiters q = false) : h.afterLoss.heldBy q = false := by
  unfold HeldEntry.afterLoss
  split
  · rfl
  next w rest hw => exact decide_eq_false (enrolled_eq_false.1 hq w (by simp [hw]))

theorem enrolled_afterLeaving (e : Entry) (p : Port) (lose : Bool) : enrolled (e.afterLeaving p lose).waiters p = false := by
  cases e with
  | held h =>
    have left := enrolled_without h.waiters p
    simp only [Entry.afterLeaving]
    split
    · exact enrolled_afterLoss (h := { h with waiters := without h.waiters p }) left
    · exact left
  | _ => rfl

theorem heldBy_afterLeaving (e : Entry) (p : Port) : (e.afterLeaving p true).heldBy p = false := by
  cases e with
  | held h =>
    simp only [Entry.afterLeaving, Bool.true_and, decide_eq_true_eq]
    split
    · exact heldBy_afterLoss (h := { h with waiters := without h.waiters p }) (enrolled_without h.waiters p)
    next other => exact decide_eq_false other
  | _ => rfl

end Sys2Proof.Machine
end

section
/-! After an event no request waits where it would be taken; an OFFLINE port has nothing, and a FENCED port is on no list (R59,
R123, R126, R127). -/

namespace Sys2Proof.Machine

/-! ### The taking of waiting requests leaves none ready -/

/-- The ports with a request on their pins. -/
def State.waiting (s : State) : Finset Port := Finset.univ.filter fun p => (s.port p).presented.isSome = true

theorem mem_waiting {s : State} {p : Port} : p ∈ s.waiting ↔ (s.port p).presented.isSome = true := by
  simp [State.waiting]

theorem Changes.presented_none {s t : State} (h : Changes s t) (q : Port) (hs : (s.port q).presented = none) :
    (t.port q).presented = none :=
  kept_of_each (P := fun u => (u.port q).presented = none) (fun _ _ g => g.presented_none q) h hs

theorem chosen_ports (s : State) (n : Nat) : (s.chosen n).ports = s.ports := by
  unfold State.chosen
  split <;> rfl

theorem chosen_takes (s : State) (n : Nat) (p : Port) : (s.chosen n).takes p = s.takes p := by
  unfold State.chosen
  split <;> rfl

/-- A port whose request is taken has none presented, and no other port has one presented for it. -/
theorem take_presented_none {s : State} {p : Port} (h : s.takes p = true) (r : Request) (q : Port)
    (hq : q = p ∨ (s.port q).presented = none) : ((s.take p r).port q).presented = none := by
  obtain ⟨-, online, -, idle⟩ := takes_iff.1 h
  have unpresented : ((s.setPresented p none).port q).presented = none := by
    by_cases hqp : q = p
    · simp [hqp]
    · simpa [hqp] using hq
  refine Changes.presented_none (s := s.setPresented p none) ?_ q unpresented
  simp only [State.take]
  split
  · exact refuse_changes ..
  next fence => exact routeRequest_changes ⟨by simp [idle], by simp [online], by simpa using fence⟩ r

theorem waiting_take_lt {s before : State} {p : Port} {r : Request} (h : (p, r) ∈ s.ready before) (n : Nat) :
    ((s.chosen n).take p r).waiting.card < s.waiting.card := by
  obtain ⟨takes, -, presented⟩ := mem_ready.1 h
  have same : ∀ q, (s.chosen n).port q = s.port q := port_eq_of_ports (chosen_ports s n)
  have none_after : ∀ q, q = p ∨ (s.port q).presented = none → (((s.chosen n).take p r).port q).presented = none :=
    fun q hq => take_presented_none (by rw [chosen_takes]; exact takes) r q (by rw [same]; exact hq)
  refine Finset.card_lt_card (Finset.ssubset_iff_of_subset (fun q hq => ?_) |>.2 ⟨p, ?_, ?_⟩)
  · rw [mem_waiting] at hq ⊢
    by_contra absent
    rw [none_after q (.inr (by simpa using absent))] at hq
    cases hq
  · simp [mem_waiting, presented]
  · simp [mem_waiting, none_after p (.inl rfl)]

theorem choose_lt {s : State} {n : Nat} (h : 0 < n) : s.choose n < n := by
  unfold State.choose
  split
  · exact h
  · exact Nat.mod_lt _ h

/-- One more request is taken, or none is ready. -/
theorem takeReadyWithin_succ (before s : State) (n : Nat) :
    (s.ready before = [] ∧ State.takeReadyWithin before (n + 1) s = s) ∨
    ∃ p r, (p, r) ∈ s.ready before ∧ State.takeReadyWithin before (n + 1) s =
      State.takeReadyWithin before n ((s.chosen (s.ready before).length).take p r) := by
  rw [State.takeReadyWithin]
  split
  next p r found => exact .inr ⟨p, r, List.mem_of_getElem? found, rfl⟩
  next missing =>
    refine .inl ⟨?_, rfl⟩
    by_contra some_ready
    have index := choose_lt (s := s) (List.length_pos_iff.2 some_ready)
    rw [List.getElem?_eq_getElem index] at missing
    cases missing

theorem ready_nil_of_waiting {s before : State} (h : s.waiting.card = 0) : s.ready before = [] :=
  ready_eq_nil.2 fun p _ => .inr (by
    have absent : p ∉ s.waiting := by simp [Finset.card_eq_zero.1 h]
    simpa [mem_waiting] using absent)

/-- With enough fuel no request is left ready. -/
theorem takeReadyWithin_ready (before : State) (n : Nat) (s : State) (enough : s.waiting.card ≤ n) :
    (State.takeReadyWithin before n s).ready before = [] := by
  induction n generalizing s with
  | zero => exact ready_nil_of_waiting (Nat.le_zero.1 enough)
  | succ n ih =>
    rcases takeReadyWithin_succ before s n with ⟨none_ready, stays⟩ | ⟨p, r, found, taken⟩
    · rw [stays]
      exact none_ready
    · rw [taken]
      exact ih _ (Nat.le_of_lt_succ ((waiting_take_lt found _).trans_le enough))

/-- More fuel than there are requests takes no more of them. -/
theorem takeReadyWithin_enough (before : State) (n m : Nat) (s : State) (hn : s.waiting.card ≤ n) (hm : s.waiting.card ≤ m) :
    State.takeReadyWithin before n s = State.takeReadyWithin before m s := by
  have stays : ∀ {k} {s : State}, s.waiting.card = 0 → State.takeReadyWithin before k s = s := by
    intro k s none_waits
    cases k with
    | zero => rfl
    | succ k =>
      rcases takeReadyWithin_succ before s k with ⟨-, h⟩ | ⟨p, r, found, -⟩
      · exact h
      · rw [ready_nil_of_waiting none_waits] at found
        cases found
  induction n generalizing s m with
  | zero => rw [stays (Nat.le_zero.1 hn), stays (Nat.le_zero.1 hn)]
  | succ n ih =>
    cases m with
    | zero => rw [stays (Nat.le_zero.1 hm), stays (Nat.le_zero.1 hm)]
    | succ m =>
      rw [State.takeReadyWithin, State.takeReadyWithin]
      split
      next p r found =>
        have fewer := waiting_take_lt (List.mem_of_getElem? found) (s.ready before).length
        exact ih m _ (Nat.le_of_lt_succ (fewer.trans_le hn)) (Nat.le_of_lt_succ (fewer.trans_le hm))
      · rfl

theorem waiting_card_le (s : State) : s.waiting.card ≤ 4 := (Finset.card_le_univ _).trans (by simp)

theorem takeReady_ready (s before : State) : (s.takeReady before).ready before = [] :=
  takeReadyWithin_ready before 4 s (waiting_card_le s)

theorem drainEnd_port (s : State) (q : Port) : s.drainEnd.port q = s.port q := by
  rcases drainEnd_cases s with ⟨_, _, _, _, h⟩ | ⟨_, h⟩
  · rw [h]
    rfl
  · rw [h]

/-- Where nothing waited at the beginning of an event and the event presents nothing, nothing waits at its end. -/
theorem nothingWaits_endEvent {s before : State} (hb : before.NothingWaits)
    (unpresented : ∀ q, (before.port q).presented = none → (s.port q).presented = none) : (s.endEvent before).NothingWaits := by
  have taken : ∀ u : State, (∀ q, u.port q = s.port q) → (u.takeReady before).NothingWaits := by
    intro u hu p takes
    rcases ready_eq_nil.1 (takeReady_ready u before) p takes with took | absent
    · exact (takeReady_changes u before).presented_none p (by rw [hu]; exact unpresented p (hb p took))
    · exact absent
  unfold State.endEvent
  split
  · exact taken s fun _ => rfl
  · exact taken _ (drainEnd_port s)

theorem nothingWaits_of_not_running {s : State} (h : s.quiesce ≠ .running) : s.NothingWaits := fun _ takes =>
  absurd (takes_iff.1 takes).2.2.1 h

theorem ticked_ports (s : State) : (s.forSlots State.tickAt).ports = s.ports := by
  have frame := ticked_frame s
  generalize s.forSlots State.tickAt = t at frame ⊢
  exact (congrArg State.ports frame :)

theorem takeTick_presented_none (s : State) (first : Option Expiry) (q : Port) (h : (s.port q).presented = none) :
    ((s.takeTick first).port q).presented = none :=
  takeTick_kept (P := fun u => (u.port q).presented = none) (fun _ _ g => g.presented_none q)
    (fun u hu => by rw [port_eq_of_ports (ticked_ports u)]; exact hu) s first h

theorem setPresented_takes (s : State) (p : Port) (r : Option Request) (q : Port) :
    (s.setPresented p r).takes q = s.takes q := by
  by_cases hq : q = p <;> exact takes_congr (by simp [hq]) (by simp [hq]) ⟨rfl, rfl, rfl, rfl, rfl, rfl, rfl⟩

theorem Ran.nothingWaits {c : Instr} {s t : State} (h : Ran c s t) (hs : s.NothingWaits) : t.NothingWaits := by
  cases h with
  | event changes => exact nothingWaits_endEvent hs changes.presented_none
  | quiet changes takes => exact fun p hp => changes.presented_none p (hs p (takes p hp))
  | @waits p r online held =>
    intro q takes
    rw [setPresented_takes] at takes
    by_cases hq : q = p
    · rw [hq, held] at takes
      cases takes
    · rw [port_setPresented_other _ _ _ _ hq]
      exact hs q takes
  | @completed op u m t _ _ before _ after =>
    exact nothingWaits_endEvent hs fun q hq => after.presented_none q (before.presented_none q hq :)
  | tick first => exact nothingWaits_endEvent hs (takeTick_presented_none (s.setDivider s.divisor) first)
  | period => exact hs
  | partReset => exact fun q takes => absurd (takes_iff.1 takes).1 (by simp [State.assertPartReset])
  | released => exact nothingWaits_endEvent hs fun _ hq => hq
  | setMap => exact hs
  | setTime => exact hs
  | cleared => exact hs
  | quiesced => exact nothingWaits_of_not_running (by simp)
  | draining => exact nothingWaits_of_not_running (by simp)
  | resumed => exact nothingWaits_endEvent hs fun _ hq => hq

theorem nothingWaits_kept : KeptByStep fun s => s.NothingWaits :=
  keptByStep_of_ran (fun _ _ _ h => h.nothingWaits) fun _ _ hs => hs

end Sys2Proof.Machine
end

section
/-! An OFFLINE port has nothing, and a FENCED port is on no list (R59, R120, R126, R128). -/

namespace Sys2Proof.Machine

/-! ### Who comes to hold an entry, or to stand on its list -/

/-- After a change of an entry from `e` to `e'`, the port `q` is on its list only if it was, and holds it only if it held it or
was on its list, or where it is `granted` the claim. -/
structure Follows (q : Port) (granted : Prop) (e e' : Entry) : Prop where
  waits : enrolled e'.waiters q = true → enrolled e.waiters q = true
  holds : e'.heldBy q = true → e.heldBy q = true ∨ enrolled e.waiters q = true ∨ granted

theorem Follows.refl (q : Port) (m : Prop) (e : Entry) : Follows q m e e := ⟨id, .inl⟩

theorem Follows.trans {q : Port} {m : Prop} {e e' e'' : Entry} (h : Follows q m e e') (g : Follows q m e' e'') :
    Follows q m e e'' := by
  refine ⟨fun w => h.waits (g.waits w), fun w => ?_⟩
  rcases g.holds w with held | listed | granted
  · exact h.holds held
  · exact .inr (.inl (h.waits listed))
  · exact .inr (.inr granted)

/-- An entry with neither `q` on its list nor `q` as its holder follows any. -/
theorem follows_bare {q : Port} {m : Prop} {e e' : Entry} (waits : enrolled e'.waiters q = false)
    (holds : e'.heldBy q = false) : Follows q m e e' := by
  refine ⟨fun w => ?_, fun w => ?_⟩
  · rw [waits] at w
    cases w
  · rw [holds] at w
    cases w

theorem follows_held {q : Port} {m : Prop} {h h' : HeldEntry} (holder : h'.holder = h.holder)
    (waits : enrolled h'.waiters q = true → enrolled h.waiters q = true) : Follows q m (.held h) (.held h') :=
  ⟨waits, fun w => .inl (by simpa [Entry.heldBy, holder] using w)⟩

theorem follows_afterLoss (q : Port) (m : Prop) (h : HeldEntry) : Follows q m (.held h) h.afterLoss := by
  cases listed : enrolled h.waiters q with
  | true => exact ⟨fun _ => listed, fun _ => .inr (.inl listed)⟩
  | false =>
    refine ⟨fun w => ?_, fun w => ?_⟩
    · rw [enrolled_afterLoss listed] at w
      cases w
    · rw [heldBy_afterLoss listed] at w
      cases w

theorem follows_afterLeaving (q : Port) (m : Prop) (e : Entry) (p : Port) (lose : Bool) :
    Follows q m e (e.afterLeaving p lose) := by
  cases e with
  | held h =>
    have left : Follows q m (.held h) (.held { h with waiters := without h.waiters p }) := follows_held rfl fun listed => by
      by_contra absent
      rw [enrolled_without_of (by simpa using absent)] at listed
      cases listed
    simp only [Entry.afterLeaving]
    split
    · exact left.trans (follows_afterLoss q m { h with waiters := without h.waiters p })
    · exact left
  | _ => exact .refl ..

theorem follows_setEntry {q : Port} {m : Prop} {s : State} {i : Slot} {e : Entry} (h : Follows q m (s.entry i) e) (j : Slot) :
    Follows q m (s.entry j) ((s.setEntry i e).entry j) := by
  by_cases hj : j = i
  · rw [hj, entry_setEntry_same]
    exact h
  · rw [entry_setEntry_other _ _ _ _ hj]
    exact .refl ..

theorem follows_lose {q : Port} {m : Prop} {s : State} {i : Slot} {h : HeldEntry} (he : Follows q m (s.entry i) (.held h))
    (cause : LossCause) (j : Slot) : Follows q m (s.entry j) ((s.lose cause i h).entry j) := by
  by_cases hj : j = i
  · rw [hj, lose_entry]
    exact he.trans (follows_afterLoss q m h)
  · rw [lose_entry_other _ _ _ _ _ hj]
    exact .refl ..

theorem follows_withdraw (q : Port) (m : Prop) (s : State) (t : Transaction) (j : Slot) :
    Follows q m (s.entry j) ((s.withdraw t).entry j) := by
  unfold State.withdraw
  split
  · split
    · exact follows_setEntry (follows_bare rfl rfl) j
    · exact .refl ..
  · exact .refl ..

theorem follows_orphan (q : Port) (m : Prop) (s : State) (a : PhysAddr) (f : OrphanMark → OrphanMark) (j : Slot) :
    Follows q m (s.entry j) ((s.orphan a f).entry j) := by
  unfold State.orphan
  split
  · exact follows_setEntry (follows_bare rfl rfl) j
  · exact .refl ..

theorem follows_endByReset (q : Port) (m : Prop) (s : State) (p : Port) (j : Slot) :
    Follows q m (s.entry j) ((s.endByReset p).entry j) := by
  unfold State.endByReset
  split
  · exact .refl ..
  · exact follows_withdraw ..
  · split
    · exact follows_orphan ..
    · exact .refl ..
  · exact .refl ..

theorem follows_endByFence (q : Port) (m : Prop) (s : State) (p : Port) (j : Slot) :
    Follows q m (s.entry j) ((s.endByFence p).entry j) := by
  unfold State.endByFence
  split
  · exact .refl ..
  · exact follows_withdraw ..
  · split
    · exact follows_orphan ..
    · exact .refl ..
  · exact .refl ..

theorem memoryTransaction_some {ph : Phase} {t : Transaction} (h : ph.memoryTransaction = some t) : ph = .inMemory t := by
  cases ph with
  | inMemory u => exact congrArg Phase.inMemory (Option.some.inj h)
  | _ => cases h

/-- A fresh claim follows where it is another port's, or where `q` is granted it. -/
theorem follows_granted {q : Port} {m : Prop} {e : Entry} {h : HeldEntry} (granted : h.holder ≠ q ∨ m)
    (waiters : h.waiters = []) : Follows q m e (.held h) := by
  refine ⟨fun w => ?_, fun holds => ?_⟩
  · rw [show (Entry.held h).waiters = [] from waiters] at w
    cases w
  · rcases granted with other | granted
    · exact absurd (by simpa [Entry.heldBy] using holds) other
    · exact .inr (.inr granted)

theorem enrolled_enrol {h : HeldEntry} {w : Waiter} {q : Port} (listed : enrolled (h.enrol w).waiters q = true)
    (other : w.port ≠ q) : enrolled h.waiters q = true := by
  rw [enrolled_eq_true] at listed ⊢
  obtain ⟨v, hv, rfl⟩ := listed
  rcases List.mem_append.1 hv with old | new
  · exact ⟨v, old, rfl⟩
  · exact absurd (List.mem_singleton.1 new ▸ rfl) other

theorem entry_eq_of_table {s t : State} (h : t.table = s.table) (j : Slot) : t.entry j = s.entry j := by
  simp only [State.entry, h]

theorem follows_fetchData (q : Port) (s : State) (p : Port) (a : PhysAddr) (w : Word) (j : Slot) :
    Follows q (∃ t, (s.port q).phase = .inMemory t) (s.entry j) ((s.fetchData p a w).entry j) := by
  have freed : ∀ i, Follows q (∃ t, (s.port q).phase = .inMemory t) (s.entry j) ((s.freeSlot i).entry j) := fun i =>
    follows_setEntry (follows_bare rfl rfl) j
  unfold State.fetchData
  split
  next i t _ memory =>
    by_cases hq : p = q
    · exact follows_setEntry (follows_granted (.inr ⟨t, hq ▸ memoryTransaction_some memory⟩) rfl) j
    · exact follows_setEntry (follows_granted (.inl hq) rfl) j
  · exact freed _
  · exact freed _
  · exact freed _
  · exact .refl ..

theorem follows_fetchError (q : Port) (m : Prop) (s : State) (p : Port) (a : PhysAddr) (j : Slot) :
    Follows q m (s.entry j) ((s.fetchError p a).entry j) := by
  have freed : ∀ i, Follows q m (s.entry j) ((s.freeSlot i).entry j) := fun i => follows_setEntry (follows_bare rfl rfl) j
  unfold State.fetchError
  split
  · exact freed _
  · exact freed _
  · exact freed _
  · exact freed _
  · exact .refl ..

theorem follows_writeBackDone (q : Port) (m : Prop) (s : State) (i j : Slot) :
    Follows q m (s.entry j) ((s.writeBackDone i).entry j) := by
  unfold State.writeBackDone
  split
  · split
    · split <;> exact follows_setEntry (follows_bare rfl rfl) j
    · exact .refl ..
  next he => exact follows_setEntry (he ▸ follows_held rfl id) j
  · exact .refl ..

theorem follows_writeBackError (q : Port) (m : Prop) (s : State) (i : Slot) (a : PhysAddr) (k : Ticket) (j : Slot) :
    Follows q m (s.entry j) ((s.writeBackError i a k).entry j) := by
  simp only [State.writeBackError]
  split
  · split
    · split <;> exact follows_setEntry (follows_bare rfl rfl) j
    · exact .refl ..
  next he => exact follows_setEntry (s := s) (i := i) ((show s.entry i = _ from he) ▸ follows_held rfl id) j
  · exact .refl ..

theorem follows_grantWriteBack (q : Port) (m : Prop) (s : State) (j : Slot) :
    Follows q m (s.entry j) (s.grantWriteBack.entry j) := by
  unfold State.grantWriteBack
  split
  · exact .refl ..
  · dsimp only
    split
    · exact follows_setEntry (follows_bare rfl rfl) j
    · exact .refl ..

theorem revive_table (s : State) (p : Port) (f : ClaimFields) (i : Slot) (r : RetiringEntry) :
    (s.revive p f i r).table = (s.setEntry i (.held { address := r.address, holder := p, ticket := r.ticket + 1,
                                                      payload := r.payload, lease := leaseOf f.lease, waiters := [],
                                                      writeBack := r.writeBack.map InFlight.regrant })).table := by
  simp only [State.revive]
  split <;> rfl

/-- Only a port that is open, or whose grant fetch is in flight, comes to a list or to a claim but by passing on. -/
theorem Change.follows {s t : State} (h : Change s t) {q : Port} (closed : ¬ s.Open q) (j : Slot) :
    Follows q (∃ u, (s.port q).phase = .inMemory u) (s.entry j) (t.entry j) := by
  cases h with
  | notify => rw [notify_entry]; exact .refl ..
  | allocate => exact follows_setEntry (follows_bare rfl rfl) j
  | renew i h he => exact follows_setEntry (he ▸ follows_held rfl id) j
  | enrol i h w he opened =>
    exact follows_setEntry (he ▸ follows_held rfl fun listed => enrolled_enrol listed fun hw => closed (hw ▸ opened)) j
  | stall p r a f i h he opened =>
    exact follows_setEntry (he ▸ follows_held rfl fun listed => enrolled_enrol listed fun hw => closed (hw ▸ opened)) j
  | convert p r a f i h he =>
    exact follows_setEntry (he ▸ follows_held rfl fun listed => by
      rwa [enrolled_congr (convert_ports h.waiters p f)] at listed) j
  | revive p f i r he opened =>
    rw [entry_eq_of_table (revive_table s p f i r)]
    exact follows_setEntry (follows_granted (.inl fun hp : p = q => closed (hp ▸ opened)) rfl) j
  | lose cause i h v he => exact follows_lose (he ▸ follows_held rfl id) cause j
  | withdraw p i h he =>
    have left := follows_afterLeaving q (∃ u, (s.port q).phase = .inMemory u) (.held h) p false
    exact follows_setEntry (he ▸ left) j
  | timeOut p i h r he =>
    have left := follows_afterLeaving q (∃ u, (s.port q).phase = .inMemory u) (.held h) p false
    exact follows_setEntry (he ▸ left) j
  | grantWriteBack => exact follows_grantWriteBack ..
  | fetchData => exact follows_fetchData q (s.setOperation none) ..
  | fetchError => exact follows_fetchError q _ (s.setOperation none) ..
  | writeBackDone => exact follows_writeBackDone q _ (s.setOperation none) ..
  | writeBackError => exact follows_writeBackError q _ (s.setOperation none) ..
  | assertReset p online =>
    rw [assertReset_eq online, leave_entry]
    exact (follows_endByReset q _ (s.shut p) p j).trans (follows_afterLeaving ..)
  | fence p =>
    rw [fencePort_eq, removeWaiters_entry]
    exact (follows_endByFence q _ (s.raiseFence p) p j).trans (follows_afterLeaving ..)
  | _ => exact .refl ..

end Sys2Proof.Machine
end

section
/-! The two invariants of closed ports, from what a change lets come to them (R59, R120, R128). -/

namespace Sys2Proof.Machine

/-! ### The phase of a port that is not open -/

theorem setPort_phase {s : State} {p : Port} {u : PortUnit} (h : u.phase = (s.port p).phase) (q : Port) :
    ((s.setPort p u).port q).phase = (s.port q).phase := by
  by_cases hq : q = p
  · rw [hq, port_setPort_same, h]
  · rw [port_setPort_other _ _ _ _ hq]

theorem setPresented_phase (s : State) (p : Port) (r : Option Request) (q : Port) :
    ((s.setPresented p r).port q).phase = (s.port q).phase := setPort_phase (by rfl) q

theorem unfencePort_phase (s : State) (p q : Port) : ((s.unfencePort p).port q).phase = (s.port q).phase :=
  setPort_phase (by rfl) q

theorem deassertReset_phase (s : State) (p q : Port) : ((s.deassertReset p).port q).phase = (s.port q).phase :=
  setPort_phase (by rfl) q

theorem finish_idle {s : State} {q : Port} (h : (s.port q).phase = .idle) (p : Port) (r : Reply) :
    ((s.finish p r).port q).phase = .idle := by
  rw [port_finish]
  split
  · rfl
  · exact h

theorem lose_idle {s : State} {q : Port} (hi : (s.port q).phase = .idle) (cause : LossCause) (i : Slot) (h : HeldEntry) :
    ((s.lose cause i h).port q).phase = .idle := by
  rw [lose_port]
  split
  · exact hi
  · split
    · rfl
    · exact hi

theorem loseAll_idle {s : State} {q : Port} (hi : (s.port q).phase = .idle) (cause : LossCause) (p : Port) :
    ((s.loseAll cause p).port q).phase = .idle := by
  unfold State.loseAll
  refine forSlots_induct (fun t => (t.port q).phase = .idle) (State.loseAt cause p) (fun t i ht => ?_) s hi
  unfold State.loseAt
  split
  · split
    · exact lose_idle ht ..
    · exact ht
  · exact ht

theorem assertReset_idle {s : State} {p q : Port} (online : (s.port p).resetAsserted = false)
    (h : q = p ∨ (s.port q).phase = .idle) : ((s.assertReset p).port q).phase = .idle := by
  rw [assertReset_eq online]
  refine loseAll_idle ?_ .offline p
  rw [removeWaiters_port, setNotice_port, endByReset_port, shut_port]
  split
  · rfl
  next other => exact h.resolve_left other

theorem fence_idle {s : State} {q : Port} (h : (s.port q).phase = .idle) (p : Port) :
    ((s.fencePort p false).port q).phase = .idle := by
  rw [fencePort_eq, removeWaiters_port, endByFence_port]
  have raised : ((s.raiseFence p).port q).phase = .idle := by
    rw [raiseFence_port]
    split <;> exact h
  split
  · split
    · rfl
    · exact raised
  · split
    · rfl
    · exact raised
  · exact raised

theorem fetchData_idle {s : State} {q : Port} (h : (s.port q).phase = .idle) (p : Port) (a : PhysAddr) (w : Word) :
    ((s.fetchData p a w).port q).phase = .idle := by
  unfold State.fetchData
  split
  · exact finish_idle (s := s.setEntry _ _) h ..
  · exact finish_idle (s := (s.freeSlot _).logFault _) h ..
  · exact h
  · exact h
  · exact h

theorem fetchError_idle {s : State} {q : Port} (h : (s.port q).phase = .idle) (p : Port) (a : PhysAddr) :
    ((s.fetchError p a).port q).phase = .idle := by
  unfold State.fetchError
  split
  · exact finish_idle (s := (s.freeSlot _).logFault _) h ..
  · exact finish_idle (s := ((s.freeSlot _).logFault _).logFault _) h ..
  · exact h
  · exact h
  · exact h

/-- A port that is not open stays IDLE. -/
theorem Change.idle {s t : State} (h : Change s t) {q : Port} (closed : ¬ s.Open q) (hi : (s.port q).phase = .idle) :
    (t.port q).phase = .idle := by
  have begun : ∀ {u : State} {p : Port} {ph : Phase}, s.Open p → u.ports = s.ports → ((u.setPhase p ph).port q).phase = .idle := by
    intro u p ph opened ports
    rw [port_setPhase_other _ _ _ _ (fun hq : q = p => closed (hq ▸ opened)), port_eq_of_ports ports]
    exact hi
  have same : ∀ {u : State}, u.ports = s.ports → (u.port q).phase = .idle := fun ports => by
    rw [port_eq_of_ports ports]
    exact hi
  cases h with
  | unpresent p => exact (setPresented_phase s p none q).trans hi
  | reply p r =>
    rw [port_reply]
    split <;> exact hi
  | notify => exact same (notify_ports ..)
  | clearFence p => exact (unfencePort_phase s p q).trans hi
  | clearReset p => exact (deassertReset_phase s p q).trans hi
  | queue p t opened => exact begun opened rfl
  | allocate p r a f i opened => exact begun (u := s.setEntry _ _) opened rfl
  | stall p r a f i h _ opened => exact begun (u := s.setEntry _ _) opened rfl
  | convert p r a f i h _ opened => exact begun (u := s.setEntry _ _) opened rfl
  | revive =>
    rw [revive_port]
    split <;> exact hi
  | lose => exact lose_idle hi ..
  | timeOut => exact finish_idle (s := s.setEntry _ _) hi ..
  | issue p t _ queued =>
    have other : q ≠ p := fun hq => by
      rw [hq, queued] at hi
      cases hi
    rw [State.issue, port_setPhase_other _ _ _ _ other]
    exact hi
  | refuseGrant => exact finish_idle hi ..
  | grantWriteBack => exact same (grantWriteBack_ports s)
  | returned => exact finish_idle (s := s.setOperation none) hi ..
  | fetchData => exact fetchData_idle (s := s.setOperation none) hi ..
  | fetchError => exact fetchError_idle (s := s.setOperation none) hi ..
  | writeBackDone => exact same (writeBackDone_ports (s.setOperation none) _)
  | writeBackError => exact same (writeBackError_ports (s.setOperation none) ..)
  | assertReset p online => exact assertReset_idle online (.inr hi)
  | fence p => exact fence_idle hi p
  | _ => exact hi

/-! ### The notices of a port in reset (R120) -/

theorem lose_notice_offline {s : State} {q : Port} (h : (s.port q).resetAsserted = true) (cause : LossCause) (i : Slot)
    (e : HeldEntry) : (s.lose cause i e).notice q = s.notice q := by
  rw [lose_notice]
  cases e.waiters <;> simp [h]

theorem loseAll_notice_offline {s : State} {q : Port} (h : (s.port q).resetAsserted = true) (cause : LossCause) (p : Port) :
    (s.loseAll cause p).notice q = s.notice q := by
  unfold State.loseAll
  refine (forSlots_induct (fun t => (t.port q).resetAsserted = true ∧ t.notice q = s.notice q) (State.loseAt cause p)
    (fun t i ht => ?_) s ⟨h, rfl⟩).2
  unfold State.loseAt
  split
  · split
    · exact ⟨(lose_pins ..).reset.trans ht.1, (lose_notice_offline ht.1 ..).trans ht.2⟩
    · exact ht
  · exact ht

theorem notice_eq_of_notices {s t : State} (h : t.notices = s.notices) (q : Port) : t.notice q = s.notice q := by
  simp only [State.notice, h]

theorem endByFence_notices (s : State) (p : Port) : (s.endByFence p).notices = s.notices := by
  unfold State.endByFence
  split
  · rfl
  · exact (withdraw_buffers s _).1
  · split
    · exact (orphan_buffers s _ _).1
    · rfl
  · rfl

theorem assertReset_notice {s : State} {p : Port} (online : (s.port p).resetAsserted = false) {q : Port}
    (h : q = p ∨ (s.port q).resetAsserted = true) :
    (s.assertReset p).notice q = if q = p then NoticeUnit.empty else s.notice q := by
  rw [assertReset_eq online, loseAll_notice_offline, removeWaiters_notice, notice_setNotice]
  · simp only [eq_comm (a := p)]
    rw [notice_eq_of_notices (endByReset_buffers (s.shut p) p).1, State.shut, setPort_notice]
  · rw [removeWaiters_port, setNotice_port, endByReset_port, shut_port]
    split
    · rfl
    next other => exact h.resolve_left other

theorem fetchData_notices (s : State) (p : Port) (a : PhysAddr) (w : Word) : (s.fetchData p a w).notices = s.notices := by
  unfold State.fetchData
  split <;> rfl

theorem fetchError_notices (s : State) (p : Port) (a : PhysAddr) : (s.fetchError p a).notices = s.notices := by
  unfold State.fetchError
  split <;> rfl

theorem writeBackError_notices (s : State) (i : Slot) (a : PhysAddr) (k : Ticket) :
    (s.writeBackError i a k).notices = s.notices := by
  simp only [State.writeBackError]
  split
  · split
    · split <;> rfl
    · rfl
  · rfl
  · rfl

/-- A port in reset gets no notice. -/
theorem Change.notice_offline {s t : State} (h : Change s t) {q : Port} (reset : (s.port q).resetAsserted = true) :
    t.notice q = s.notice q := by
  cases h with
  | notify p n =>
    rw [notify_notice, if_neg]
    rintro ⟨rfl, online⟩
    rw [reset] at online
    cases online
  | setNotice p n online =>
    rw [notice_setNotice, if_neg]
    rintro rfl
    rw [reset] at online
    cases online
  | revive => exact notice_eq_of_notices (revive_buffers ..).1 q
  | lose => exact lose_notice_offline reset ..
  | grantWriteBack => exact notice_eq_of_notices (grantWriteBack_buffers s).1 q
  | fetchData => exact notice_eq_of_notices (fetchData_notices (s.setOperation none) ..) q
  | fetchError => exact notice_eq_of_notices (fetchError_notices (s.setOperation none) ..) q
  | writeBackDone => exact notice_eq_of_notices (writeBackDone_buffers (s.setOperation none) _).1 q
  | writeBackError => exact notice_eq_of_notices (writeBackError_notices (s.setOperation none) ..) q
  | assertReset p online =>
    have other : q ≠ p := fun hq => by
      rw [hq, online] at reset
      cases reset
    rw [assertReset_notice online (.inr reset), if_neg other]
  | fence p =>
    rw [fencePort_eq, removeWaiters_notice]
    exact notice_eq_of_notices (endByFence_notices (s.raiseFence p) p) q
  | _ => rfl

/-! ### The invariants -/

theorem closed_of_reset {s : State} {q : Port} (h : (s.port q).resetAsserted = true) : ¬ s.Open q := fun opened => by
  have online := opened.2.1
  rw [h] at online
  cases online

theorem closed_of_fence {s : State} {q : Port} (h : (s.port q).fence = true) : ¬ s.Open q := fun opened => by
  have unfenced := opened.2.2
  rw [h] at unfenced
  cases unfenced

/-- A port comes to be in reset by the assertion of its input alone. -/
theorem Change.reset_of {s t : State} (h : Change s t) {q : Port} (ht : (t.port q).resetAsserted = true) :
    (s.port q).resetAsserted = true ∨ (t = s.assertReset q ∧ (s.port q).resetAsserted = false) := by
  rcases h.pins q with pins | e | e | e | ⟨e, online⟩ | e
  · exact .inl (pins.reset ▸ ht)
  · exact .inl (by simpa [e] using ht)
  · exact .inl (by simpa [e, State.unfencePort] using ht)
  · simp [e, State.deassertReset] at ht
  · exact .inr ⟨e, online⟩
  · rw [e, (fence_port_pins s q q).reset] at ht
    exact .inl ht

theorem Change.offlineEmpty {s t : State} (h : Change s t) (hs : s.OfflineEmpty) : t.OfflineEmpty := by
  intro q reset
  rcases h.reset_of reset with was | ⟨rfl, online⟩
  · obtain ⟨idle, notices, unpresented, entries⟩ := hs q was
    refine ⟨h.idle (closed_of_reset was) idle, (h.notice_offline was).trans notices, h.presented_none q unpresented, fun i => ?_⟩
    obtain ⟨unheld, unlisted⟩ := entries i
    have follows := h.follows (closed_of_reset was) i
    refine ⟨Bool.eq_false_iff.2 fun holds => ?_, Bool.eq_false_iff.2 fun listed => ?_⟩
    · rcases follows.holds holds with held | listed | ⟨u, memory⟩
      · exact Bool.eq_false_iff.1 unheld held
      · exact Bool.eq_false_iff.1 unlisted listed
      · rw [idle] at memory
        cases memory
    · exact Bool.eq_false_iff.1 unlisted (follows.waits listed)
  · refine ⟨assertReset_idle online (.inl rfl), (assertReset_notice online (.inl rfl)).trans (if_pos rfl), ?_, fun i => ?_⟩
    · have pins := assertReset_port_pins online q
      rw [if_pos rfl] at pins
      exact pins.presented
    · rw [assertReset_eq online, leave_entry]
      exact ⟨heldBy_afterLeaving .., enrolled_afterLeaving ..⟩

theorem Change.fencedUnlisted {s t : State} (h : Change s t) (hs : s.FencedUnlisted) : t.FencedUnlisted := by
  intro q fence i
  have inherited : (s.port q).fence = true → enrolled (t.entry i).waiters q = false := fun was =>
    Bool.eq_false_iff.2 fun listed => Bool.eq_false_iff.1 (hs q was i) ((h.follows (closed_of_fence was) i).waits listed)
  rcases h.pins q with pins | e | e | e | ⟨e, online⟩ | e
  · exact inherited (pins.fence ▸ fence)
  · exact inherited (by simpa [e] using fence)
  · simp [e, State.unfencePort] at fence
  · exact inherited (by simpa [e, State.deassertReset] using fence)
  · refine inherited ?_
    have pins := assertReset_port_pins online q
    rw [if_pos rfl, ← e] at pins
    exact pins.fence.symm.trans fence
  · rw [e, fencePort_eq, removeWaiters_entry]
    exact enrolled_afterLeaving ..

/-- A tick changes neither holders nor the ports on the lists. -/
theorem counted_waiters_port (e : Entry) (q : Port) :
    e.counted.heldBy q = e.heldBy q ∧ enrolled e.counted.waiters q = enrolled e.waiters q := by
  cases e with
  | held h => exact ⟨rfl, enrolled_congr (counted_ports h.waiters) q⟩
  | _ => exact ⟨rfl, rfl⟩

theorem ticked_notices (s : State) : (s.forSlots State.tickAt).notices = s.notices := by
  have frame := ticked_frame s
  generalize s.forSlots State.tickAt = t at frame ⊢
  exact (congrArg State.notices frame :)

theorem offlineEmpty_ticked {s : State} (hs : s.OfflineEmpty) : (s.forSlots State.tickAt).OfflineEmpty := by
  intro q reset
  rw [port_eq_of_ports (ticked_ports s)] at reset ⊢
  obtain ⟨idle, notices, unpresented, entries⟩ := hs q reset
  refine ⟨idle, (notice_eq_of_notices (ticked_notices s) q).trans notices, unpresented, fun i => ?_⟩
  rw [ticked_entry, (counted_waiters_port _ q).1, (counted_waiters_port _ q).2]
  exact entries i

theorem fencedUnlisted_ticked {s : State} (hs : s.FencedUnlisted) : (s.forSlots State.tickAt).FencedUnlisted := by
  intro q fence i
  rw [port_eq_of_ports (ticked_ports s)] at fence
  rw [ticked_entry, (counted_waiters_port _ q).2]
  exact hs q fence i

/-- Part reset leaves each port IDLE and its input pins as they were (R136). -/
theorem assertPartReset_port (s : State) (q : Port) : s.assertPartReset.port q = (s.port q).partReset := by
  have units : s.assertPartReset.port q =
      #v[(s.port 0).partReset, (s.port 1).partReset, (s.port 2).partReset, (s.port 3).partReset][q.val] := by
    simp only [← port_eq_of_ports (abandon_within_fields s).1]
    rfl
  rw [units]
  match q with
  | 0 | 1 | 2 | 3 => rfl

theorem offlineEmpty_kept : KeptByStep fun s => s.OfflineEmpty := by
  refine keptByStep_of_changes (fun _ _ h => h.offlineEmpty) (fun s t h hs => ?_)
    (takeTick_kept (fun _ _ h => h.offlineEmpty) fun _ => offlineEmpty_ticked) fun s hs q reset => ?_
  · cases h with
    | present p r online =>
      intro q reset
      have other : q ≠ p := fun hq => by
        rw [hq, port_setPresented_same, online] at reset
        cases reset
      rw [port_setPresented_other _ _ _ _ other] at reset ⊢
      exact hs q reset
    | clearSlot i a k w he =>
      intro q reset
      obtain ⟨idle, empty, absent, off⟩ := hs q reset
      exact ⟨idle, empty, absent, forall_entry_setEntry (Q := fun e => e.heldBy q = false ∧ enrolled e.waiters q = false) off ⟨rfl, rfl⟩⟩
    | _ => exact hs
  · rw [assertPartReset_port] at reset ⊢
    exact ⟨rfl, assertPartReset_notice s q, (hs q reset).2.2.1, fun i => by rw [assertPartReset_entry]; exact ⟨rfl, rfl⟩⟩

theorem fencedUnlisted_kept : KeptByStep fun s => s.FencedUnlisted := by
  refine keptByStep_of_changes (fun _ _ h => h.fencedUnlisted) (fun s t h hs => ?_)
    (takeTick_kept (fun _ _ h => h.fencedUnlisted) fun _ => fencedUnlisted_ticked) fun s _ q _ i => ?_
  · cases h with
    | present p r =>
      intro q fence
      refine hs q ?_
      by_cases hq : q = p
      · rw [hq, port_setPresented_same] at fence
        exact hq ▸ fence
      · rwa [port_setPresented_other _ _ _ _ hq] at fence
    | clearSlot i a k w he =>
      exact fun q fence => forall_entry_setEntry (Q := fun e => enrolled e.waiters q = false) (hs q fence) rfl
    | _ => exact hs
  · rw [assertPartReset_entry]
    rfl

/-- Settles O57: what a change lets come to a closed port is nothing, and the end of an event takes what waits. -/
theorem everyStepKeepsClosedPortsEmpty : Obligations.EveryStepKeepsClosedPortsEmpty :=
  ⟨offlineEmpty_kept, fencedUnlisted_kept, nothingWaits_kept⟩

end Sys2Proof.Machine
end

section
/-! Every step keeps the running counts sound: a tick may bring counts to 0, and its expiries leave none there (R51, R68, R69). -/

namespace Sys2Proof.Machine

/-! ### Sums over the slots -/

/-- Two sums over the slots whose summands agree but at one slot. -/
theorem sum_slots_change {f g : Slot → Nat} (i : Slot) (h : ∀ j, j ≠ i → g j = f j) :
    (slots.map g).sum + f i = (slots.map f).sum + g i := by
  have sums : ∀ k : Slot → Nat, (slots.map k).sum = k i + ∑ j ∈ Finset.univ.erase i, k j := fun k => by
    rw [Finset.add_sum_erase _ _ (Finset.mem_univ i), Fin.sum_univ_def]
    rfl
  have others : ∑ j ∈ Finset.univ.erase i, g j = ∑ j ∈ Finset.univ.erase i, f j :=
    Finset.sum_congr rfl fun j hj => h j (Finset.ne_of_mem_erase hj)
  rw [sums f, sums g, others]
  omega

/-! ### The expiries of a tick run out -/

theorem expiries_length (s : State) : s.expiries.length = (slots.map fun i => ((s.entry i).expiries i).length).sum := by
  rw [State.expiries, List.length_flatMap]

/-- Where one entry alone changes, and has fewer expiries then, fewer are left in all. -/
theorem expiries_lt {s t : State} {i : Slot} (others : ∀ j, j ≠ i → t.entry j = s.entry j)
    (fewer : ((t.entry i).expiries i).length < ((s.entry i).expiries i).length) : t.expiries.length < s.expiries.length := by
  rw [expiries_length, expiries_length]
  have sums := sum_slots_change (f := fun j => ((s.entry j).expiries j).length) (g := fun j => ((t.entry j).expiries j).length) i
    fun j hj => by rw [others j hj]
  omega

theorem leaseOf_leaseAt (n : Ticks) : (leaseOf n).any (fun l => decide (l.remaining = 0)) = false := by
  unfold leaseOf
  split
  · rfl
  next h => simpa using h

theorem expireLease_lt {s : State} {i : Slot} {h : HeldEntry} (he : s.entry i = .held h) (hl : h.leaseAt 0 = true) :
    (s.expireLease i).expiries.length < s.expiries.length := by
  rw [expireLease_held he hl]
  refine expiries_lt (fun j hj => lose_entry_other _ _ _ _ _ hj) ?_
  rw [lose_entry, he]
  rcases hw : h.waiters with _ | ⟨w, rest⟩
  · simp only [HeldEntry.afterLoss, hw, Entry.expiries, hl, if_true, List.length_nil, List.length_append, List.length_singleton]
    omega
  · have after : h.afterLoss = .held (h.handTo w rest) := by
      simp only [HeldEntry.afterLoss, hw]
      rfl
    have fresh : (h.handTo w rest).leaseAt 0 = false := leaseOf_leaseAt w.lease
    simp only [after, Entry.expiries, fresh, hl, hw, Bool.false_eq_true, if_false, if_true, List.nil_append, List.length_map,
      List.length_append, List.length_singleton, List.filter_cons]
    simp only [HeldEntry.handTo]
    split
    · rw [List.length_cons]
      omega
    · omega

theorem expireWait_lt {s : State} {i : Slot} {h : HeldEntry} {p : Port} (he : s.entry i = .held h)
    (hw : ∃ w ∈ h.waiters, w.port = p ∧ w.waitAt 0 = true) : (s.expireWait i p).expiries.length < s.expiries.length := by
  obtain ⟨w, listed, hp, ended⟩ := hw
  have found : (h.waiters.any fun w => w.port = p && w.waitAt 0) = true :=
    List.any_eq_true.2 ⟨w, listed, by rw [ended, hp]; simp⟩
  simp only [State.expireWait, he, found, if_true]
  refine expiries_lt (i := i) (fun j hj => by simp [hj]) ?_
  have shorter : ((without h.waiters p).filter fun w => w.waitAt 0).length < (h.waiters.filter fun w => w.waitAt 0).length := by
    rw [without, List.filter_comm]
    refine List.length_filter_lt_length_iff_exists.2 ⟨w, List.mem_filter.2 ⟨listed, ended⟩, by simp [hp]⟩
  rw [finish_entry, entry_setEntry_same, he]
  have lease : HeldEntry.leaseAt { h with waiters := without h.waiters p } 0 = h.leaseAt 0 := rfl
  simp only [Entry.expiries, lease, List.length_append, List.length_map]
  omega

/-- Each expiry leaves fewer. -/
theorem expire_lt {s : State} {e : Expiry} (h : e ∈ s.expiries) : (s.expire e).expiries.length < s.expiries.length := by
  cases e with
  | lease i =>
    obtain ⟨h, he, hl⟩ := mem_expiries_lease.1 h
    exact expireLease_lt he hl
  | wait i p =>
    obtain ⟨h, he, hw⟩ := mem_expiries_wait.1 h
    exact expireWait_lt he hw

theorem chosen_expiries (s : State) (n : Nat) : (s.chosen n).expiries = s.expiries := by
  unfold State.chosen
  split <;> rfl

/-- With enough fuel no count is left at 0. -/
theorem expireAll_expiries (n : Nat) (s : State) (enough : s.expiries.length ≤ n) : (State.expireAll n s).expiries = [] := by
  induction n generalizing s with
  | zero => exact List.length_eq_zero_iff.1 (Nat.le_zero.1 enough)
  | succ n ih =>
    rw [State.expireAll]
    split
    next e found =>
      have fewer := expire_lt (s := s.chosen s.expiries.length) (e := e)
        (by rw [chosen_expiries]; exact List.mem_of_getElem? found)
      rw [chosen_expiries] at fewer
      exact ih _ (Nat.le_of_lt_succ (fewer.trans_le enough))
    next missing =>
      by_contra some_left
      rw [List.getElem?_eq_getElem (choose_lt (s := s) (List.length_pos_iff.2 some_left))] at missing
      cases missing

theorem takeTick_expiries (s : State) (first : Option Expiry) : (s.takeTick first).expiries = [] :=
  expireAll_expiries _ _ (Nat.le_refl _)

/-! ### Counts that stand in a relation to their lengths -/

/-- The count of a waiter record, if it runs, stands in the relation `C` to its length. -/
def Waiter.countIn (C : Ticks → Ticks → Bool) (w : Waiter) : Bool :=
  match w.mode with
  | .wait limit (some n) => C n limit
  | _ => true

/-- The running counts of an entry stand in the relation `C` to their lengths. -/
def Entry.countsIn (C : Ticks → Ticks → Bool) : Entry → Bool
  | .held h => h.lease.all (fun l => C l.remaining l.length) && h.waiters.all (Waiter.countIn C)
  | _ => true

theorem countsIn_held {C : Ticks → Ticks → Bool} {h : HeldEntry} : (Entry.held h).countsIn C = true ↔
    (∀ l, h.lease = some l → C l.remaining l.length = true) ∧ ∀ w ∈ h.waiters, w.countIn C = true := by
  rw [Entry.countsIn, Bool.and_eq_true, List.all_eq_true, Option.all_eq_true]

theorem countsIn_countSound (e : Entry) : e.countsIn countSound = e.countsSound := by
  cases e <;> rfl

theorem countSound_iff {n l : Ticks} : countSound n l = true ↔ 1 ≤ n.toNat ∧ n.toNat ≤ l.toNat := by
  simp only [countSound, Bool.and_eq_true, decide_eq_true_eq]

theorem countSound_self {n : Ticks} (h : n ≠ 0) : countSound n n = true := by
  have : n.toNat ≠ 0 := fun h0 => h (BitVec.eq_of_toNat_eq h0)
  exact countSound_iff.2 ⟨by omega, le_refl _⟩

section
variable {C : Ticks → Ticks → Bool} (weaker : ∀ n l, countSound n l = true → C n l = true)
  (restart : ∀ n l, C n l = true → C l l = true)
include weaker

theorem countIn_leaseOf (n : Ticks) (l : Lease) (h : leaseOf n = some l) : C l.remaining l.length = true := by
  unfold leaseOf at h
  split at h
  · cases h
  next nonzero =>
    obtain rfl := Option.some.inj h
    exact weaker _ _ (countSound_self nonzero)

theorem waitMode_countIn (w : Waiter) (limit : Ticks) (h : w.mode = waitMode limit) : w.countIn C = true := by
  by_cases zero : limit = 0
  · simp only [Waiter.countIn, h, waitMode, if_pos zero]
  · simp only [Waiter.countIn, h, waitMode, if_neg zero]
    exact weaker _ _ (countSound_self zero)

theorem countIn_of_countSound {w : Waiter} (h : w.countSound = true) : w.countIn C = true := by
  unfold Waiter.countIn
  split
  next limit n mode => exact weaker _ _ (by simpa [Waiter.countSound, mode] using h)
  · rfl

theorem countsIn_afterLoss {h : HeldEntry} (hs : (Entry.held h).countsIn C = true) : h.afterLoss.countsIn C = true := by
  obtain ⟨-, waits⟩ := countsIn_held.1 hs
  unfold HeldEntry.afterLoss
  split
  · rfl
  next w rest hw =>
    refine countsIn_held.2 ⟨fun l hl => countIn_leaseOf weaker w.lease l hl, fun v hv => waits v ?_⟩
    rw [hw]
    exact List.mem_cons_of_mem _ hv

include restart

theorem countsIn_listChange {h h' : HeldEntry} (c : ListChange h h') (hs : (Entry.held h).countsIn C = true) :
    (Entry.held h').countsIn C = true := by
  obtain ⟨lease, waits⟩ := countsIn_held.1 hs
  cases c with
  | renew =>
    refine countsIn_held.2 ⟨fun l hl => ?_, waits⟩
    obtain ⟨k, hk, rfl⟩ := Option.map_eq_some_iff.1 hl
    exact restart _ _ (lease k hk)
  | enrol w _ _ sound =>
    refine countsIn_held.2 ⟨lease, fun v hv => ?_⟩
    rcases List.mem_append.1 hv with hv | hv
    · exact waits v hv
    · rw [List.mem_singleton.1 hv]
      exact countIn_of_countSound weaker sound
  | convert p f =>
    refine countsIn_held.2 ⟨lease, fun v hv => ?_⟩
    obtain ⟨u, hu, rfl⟩ := List.mem_map.1 hv
    split
    · exact waitMode_countIn weaker _ f.limit rfl
    · exact waits u hu
  | leave p => exact countsIn_held.2 ⟨lease, fun v hv => waits v (List.mem_filter.1 hv).1⟩

theorem TableChange.countsIn {s t : State} (c : TableChange s t) (hs : ∀ i, (s.entry i).countsIn C = true) (i : Slot) :
    (t.entry i).countsIn C = true :=
  c.forall_entry (Q := fun e => e.countsIn C = true) rfl (fun _ _ _ => rfl) (fun _ => rfl) (fun _ _ _ => rfl)
    (fun _ _ _ _ n _ => countsIn_held.2 ⟨countIn_leaseOf weaker n, nofun⟩) (fun _ _ => countsIn_listChange weaker restart)
    (fun _ _ hs => countsIn_afterLoss weaker hs) (fun _ hs => hs) hs i

end

/-! ### The invariant -/

/-- A count does not exceed its length. -/
def countBounded (n l : Ticks) : Bool := n.toNat ≤ l.toNat

theorem counted_countBounded {e : Entry} (h : e.countsIn countSound = true) : e.counted.countsIn countBounded = true := by
  have less : ∀ {n l : Ticks}, countSound n l = true → countBounded (n - 1) l = true := fun {n l} h => by
    obtain ⟨one, bound⟩ := countSound_iff.1 h
    simp only [countBounded, decide_eq_true_eq]
    bv_omega
  cases e with
  | held h =>
    obtain ⟨lease, waits⟩ := countsIn_held.1 h
    refine countsIn_held.2 ⟨fun l hl => ?_, fun v hv => ?_⟩
    · obtain ⟨k, hk, rfl⟩ := Option.map_eq_some_iff.1 hl
      exact less (lease k hk)
    · obtain ⟨w, hw, rfl⟩ := List.mem_map.1 hv
      have sound := waits w hw
      unfold Waiter.counted
      split
      next limit n mode => exact less (by simpa [Waiter.countIn, mode] using sound)
      next other =>
        unfold Waiter.countIn
        split
        next limit n mode => exact absurd mode (other limit n)
        · rfl
  | _ => rfl

theorem not_zero_of_bounded {n l : Ticks} (h : countBounded n l = true) (nonzero : n ≠ 0) : countSound n l = true := by
  have : n.toNat ≠ 0 := fun h0 => nonzero (BitVec.eq_of_toNat_eq h0)
  simp only [countBounded, decide_eq_true_eq] at h
  exact countSound_iff.2 ⟨by omega, h⟩

/-- Where no count exceeds its length and none stands at 0, the counts are sound. -/
theorem countsSound_of_bounded {s : State} (bounded : ∀ i, (s.entry i).countsIn countBounded = true) (none_left : s.expiries = []) :
    s.CountsSound := by
  intro i
  rw [← countsIn_countSound]
  have hs := bounded i
  cases he : s.entry i with
  | held h =>
    rw [he] at hs
    obtain ⟨lease, waits⟩ := countsIn_held.1 hs
    refine countsIn_held.2 ⟨fun l hl => not_zero_of_bounded (lease l hl) fun zero => ?_, fun w hw => ?_⟩
    · have left : .lease i ∈ s.expiries := mem_expiries_lease.2 ⟨h, he, by simp [HeldEntry.leaseAt, hl, zero]⟩
      rw [none_left] at left
      cases left
    · have sound := waits w hw
      unfold Waiter.countIn at sound ⊢
      split
      next limit n mode =>
        rw [mode] at sound
        refine not_zero_of_bounded sound fun zero => ?_
        have left : .wait i w.port ∈ s.expiries :=
          mem_expiries_wait.2 ⟨h, he, w, hw, rfl, by simp [Waiter.waitAt, mode, zero]⟩
        rw [none_left] at left
        cases left
      · rfl
  | _ => rfl

theorem takeTick_countsSound (s : State) (first : Option Expiry) (hs : s.CountsSound) : (s.takeTick first).CountsSound := by
  refine countsSound_of_bounded ?_ (takeTick_expiries s first)
  have change : ∀ u v, TableChange u v → (∀ i, (u.entry i).countsIn countBounded = true) →
      ∀ i, (v.entry i).countsIn countBounded = true := fun u v c =>
    c.countsIn (fun n l h => by simpa [countBounded] using (countSound_iff.1 h).2) (fun n l _ => by simp [countBounded])
  have expired : ∀ (u : State) (e : Expiry), (∀ i, (u.entry i).countsIn countBounded = true) →
      ∀ i, ((u.expire e).entry i).countsIn countBounded = true := fun u e =>
    kept_of_each (P := fun u => ∀ i, (u.entry i).countsIn countBounded = true)
      (fun _ _ h => kept_of_each change h.tableChanges) (expire_changes u e)
  have ticked : ∀ i, ((s.forSlots State.tickAt).entry i).countsIn countBounded = true := fun i => by
    rw [ticked_entry]
    exact counted_countBounded (by rw [countsIn_countSound]; exact hs i)
  unfold State.takeTick
  generalize s.forSlots State.tickAt = u at ticked
  refine expireAll_induct (fun u => ∀ i, (u.entry i).countsIn countBounded = true) expired (fun _ h => h) _ _ ?_
  cases first with
  | none => exact ticked
  | some e => exact expired u e ticked

theorem countsSound_kept : KeptByStep fun s => s.CountsSound := by
  refine keptByStep_of_tableChanges (fun s t c hs i => ?_) (fun s i _ _ _ _ hs =>
    forall_entry_setEntry (Q := fun e => e.countsSound = true) hs rfl) takeTick_countsSound fun s free _ _ i => by rw [free]; rfl
  rw [← countsIn_countSound]
  refine c.countsIn (fun _ _ h => h) (fun n l h => ?_) (fun i => ?_) i
  · obtain ⟨one, bound⟩ := countSound_iff.1 h
    exact countSound_iff.2 ⟨one.trans bound, le_refl _⟩
  · rw [countsIn_countSound]
    exact hs i

end Sys2Proof.Machine
end

section
/-! Every step keeps WAIT records and STALLED ports in agreement (R54). -/

namespace Sys2Proof.Machine

/-! ### WAIT records on one list -/

/-- Number of WAIT records of a port on one list. -/
def waitsOf (l : List Waiter) (q : Port) : Nat := l.countP fun w => w.port = q && w.waits

theorem waitRecords_eq (s : State) (q : Port) : s.waitRecords q = (slots.map fun i => waitsOf (s.entry i).waiters q).sum := rfl

theorem waitsOf_pos {l : List Waiter} {w : Waiter} (hw : w ∈ l) (waits : w.waits = true) : 0 < waitsOf l w.port :=
  List.countP_pos_iff.2 ⟨w, hw, by simp [waits]⟩

theorem waitsOf_cons (w : Waiter) (rest : List Waiter) (q : Port) :
    waitsOf (w :: rest) q = waitsOf rest q + if q = w.port ∧ w.waits = true then 1 else 0 := by
  rw [waitsOf, List.countP_cons]
  congr 1
  simp only [Bool.and_eq_true, decide_eq_true_eq, eq_comm (a := q)]

theorem waitsOf_append_one (l : List Waiter) (w : Waiter) (q : Port) :
    waitsOf (l ++ [w]) q = waitsOf l q + if q = w.port ∧ w.waits = true then 1 else 0 := by
  rw [waitsOf, List.countP_append]
  exact congrArg (_ + ·) ((waitsOf_cons w [] q).trans (Nat.zero_add _))

theorem waitsOf_without (l : List Waiter) (p q : Port) : waitsOf (without l p) q = if q = p then 0 else waitsOf l q := by
  rw [waitsOf, without, List.countP_filter]
  split
  next h =>
    refine List.countP_eq_zero.2 fun w _ => ?_
    by_cases hw : w.port = p <;> simp [h, hw]
  next h =>
    refine List.countP_congr fun w _ => ?_
    by_cases hw : w.port = q <;> simp [hw, h]

theorem waitMode_waits (p : Port) (limit n : Ticks) : Waiter.waits { port := p, mode := waitMode limit, lease := n } = true := rfl

theorem waitsOf_convert (l : List Waiter) (p : Port) (f : ClaimFields) (q : Port) :
    waitsOf (convert l p f) q = if q = p then (l.map Waiter.port).count p else waitsOf l q := by
  rw [waitsOf, convert, List.countP_map]
  split
  next h =>
    rw [List.count, List.countP_map]
    refine List.countP_congr fun w _ => ?_
    by_cases hw : w.port = p
    · simp [h, hw, waitMode, Waiter.waits]
    · simp [h, hw]
  next h =>
    refine List.countP_congr fun w _ => ?_
    by_cases hw : w.port = p
    · simp [hw, Ne.symm h]
    · simp [hw]

theorem waitsOf_counted (l : List Waiter) (q : Port) : waitsOf (l.map Waiter.counted) q = waitsOf l q := by
  rw [waitsOf, List.countP_map]
  refine List.countP_congr fun w _ => ?_
  obtain ⟨port, mode, lease⟩ := w
  rcases mode with _ | ⟨limit, _ | n⟩ <;> exact Iff.rfl

/-! ### WAIT records on all the lists -/

/-- Where one entry alone changes, the WAIT records of a port change by those on its list. -/
theorem waitRecords_change {s t : State} {i : Slot} (q : Port) (others : ∀ j, j ≠ i → t.entry j = s.entry j) :
    t.waitRecords q + waitsOf (s.entry i).waiters q = s.waitRecords q + waitsOf (t.entry i).waiters q :=
  sum_slots_change (f := fun j => waitsOf (s.entry j).waiters q) (g := fun j => waitsOf (t.entry j).waiters q) i
    fun j hj => by rw [others j hj]

theorem waitRecords_setEntry (s : State) (i : Slot) (e : Entry) (q : Port) :
    (s.setEntry i e).waitRecords q + waitsOf (s.entry i).waiters q = s.waitRecords q + waitsOf e.waiters q := by
  have sums := waitRecords_change (t := s.setEntry i e) q fun j hj => entry_setEntry_other s i j e hj
  rwa [entry_setEntry_same] at sums

theorem waitRecords_congr {s t : State} (q : Port) (h : ∀ i, waitsOf (t.entry i).waiters q = waitsOf (s.entry i).waiters q) :
    t.waitRecords q = s.waitRecords q := by
  rw [waitRecords_eq, waitRecords_eq]
  exact congrArg List.sum (List.map_congr_left fun i _ => h i)

theorem waitRecords_zero {s : State} {q : Port} : s.waitRecords q = 0 ↔ ∀ i, waitsOf (s.entry i).waiters q = 0 := by
  rw [waitRecords_eq, List.sum_eq_zero_iff]
  simp

/-! ### Changes that leave the lists alone -/

/-- The lists of an entry are as they were. -/
def ListsSame (s t : State) : Prop := ∀ i, (t.entry i).waiters = (s.entry i).waiters

theorem ListsSame.trans {s t u : State} (h : ListsSame s t) (g : ListsSame t u) : ListsSame s u := fun i => (g i).trans (h i)

theorem listsSame_setEntry {s : State} {i : Slot} {e : Entry} (h : e.waiters = (s.entry i).waiters) :
    ListsSame s (s.setEntry i e) := by
  intro j
  by_cases hj : j = i
  · rw [hj, entry_setEntry_same, h]
  · rw [entry_setEntry_other _ _ _ _ hj]

theorem ListsSame.waitRecords {s t : State} (h : ListsSame s t) (q : Port) : t.waitRecords q = s.waitRecords q :=
  waitRecords_congr q fun i => by rw [h i]

/-- The stalls stay sound where the lists stand and no port stalls or ceases to. -/
theorem ListsSame.stallsSound {s t : State} (h : ListsSame s t) (hs : s.StallsSound)
    (phases : ∀ q, (t.port q).phase.isStalled = (s.port q).phase.isStalled) : t.StallsSound := fun q => by
  rw [h.waitRecords, phases]
  exact hs q

theorem listsSame_freeSlot {s : State} {a : PhysAddr} {i : Slot} {m : OrphanMark} (found : s.fetchingAt a = some (i, m)) :
    ListsSame s (s.freeSlot i) := by
  obtain ⟨p, he⟩ := fetchingAt_entry found
  exact listsSame_setEntry (by rw [he]; rfl)

theorem listsSame_withdraw (s : State) (t : Transaction) : ListsSame s (s.withdraw t) := by
  unfold State.withdraw
  split
  · split
    next found => exact listsSame_freeSlot found
    · exact fun _ => rfl
  · exact fun _ => rfl

theorem listsSame_orphan (s : State) (a : PhysAddr) (f : OrphanMark → OrphanMark) : ListsSame s (s.orphan a f) := by
  unfold State.orphan
  split
  next i x q m heq =>
    obtain ⟨k, -, hk⟩ := Option.map_eq_some_iff.1 heq
    obtain ⟨rfl, he⟩ := Prod.mk.inj hk
    exact listsSame_setEntry (by rw [he]; rfl)
  · exact fun _ => rfl

theorem listsSame_endByReset (s : State) (p : Port) : ListsSame s (s.endByReset p) := by
  unfold State.endByReset
  split
  · exact fun _ => rfl
  · exact listsSame_withdraw s _
  · split
    · exact listsSame_orphan s _ _
    · exact fun _ => rfl
  · exact fun _ => rfl

theorem listsSame_endByFence (s : State) (p : Port) : ListsSame s (s.endByFence p) := by
  unfold State.endByFence
  split
  · exact fun _ => rfl
  · exact listsSame_withdraw s _
  · split
    · exact listsSame_orphan s _ _
    · exact fun _ => rfl
  · exact fun _ => rfl

theorem listsSame_fetchData (s : State) (p : Port) (a : PhysAddr) (w : Word) : ListsSame s (s.fetchData p a w) := by
  unfold State.fetchData
  split
  next found _ =>
    obtain ⟨q, he⟩ := fetchingAt_entry found
    exact listsSame_setEntry (by rw [he]; rfl)
  next found _ => exact listsSame_freeSlot found
  next found => exact listsSame_freeSlot found
  next found _ => exact listsSame_freeSlot found
  · exact fun _ => rfl

theorem listsSame_fetchError (s : State) (p : Port) (a : PhysAddr) : ListsSame s (s.fetchError p a) := by
  unfold State.fetchError
  split
  next found _ => exact listsSame_freeSlot found
  next found _ => exact listsSame_freeSlot found
  next found => exact listsSame_freeSlot found
  next found _ => exact listsSame_freeSlot found
  · exact fun _ => rfl

theorem listsSame_writeBackDone (s : State) (i : Slot) : ListsSame s (s.writeBackDone i) := by
  unfold State.writeBackDone
  split
  next he =>
    split
    · split <;> exact listsSame_setEntry (by rw [he]; rfl)
    · exact fun _ => rfl
  next he => exact listsSame_setEntry (by rw [he]; rfl)
  · exact fun _ => rfl

theorem listsSame_writeBackError (s : State) (i : Slot) (a : PhysAddr) (k : Ticket) : ListsSame s (s.writeBackError i a k) := by
  simp only [State.writeBackError]
  split
  next he =>
    rw [logFault_entry] at he
    split
    · split <;> exact listsSame_setEntry (s := s) (by rw [he]; rfl)
    · exact fun _ => rfl
  next he =>
    rw [logFault_entry] at he
    exact listsSame_setEntry (s := s) (by rw [he]; rfl)
  · exact fun _ => rfl

theorem listsSame_grantWriteBack (s : State) : ListsSame s s.grantWriteBack := by
  unfold State.grantWriteBack
  split
  · exact fun _ => rfl
  · dsimp only
    split
    next he =>
      rw [setQueue_entry] at he
      exact listsSame_setEntry (s := s) (by rw [he]; rfl)
    · exact fun _ => rfl

/-! ### Phases -/

/-- A port whose phase is replaced by one that is as stalled as it was. -/
theorem setPhase_isStalled {s : State} {p : Port} {ph : Phase} (h : ph.isStalled = (s.port p).phase.isStalled) (q : Port) :
    ((s.setPhase p ph).port q).phase.isStalled = (s.port q).phase.isStalled := by
  rw [port_setPhase]
  split
  next hq => rw [hq, ← h]
  · rfl

theorem finish_isStalled {s : State} {p : Port} (h : (s.port p).phase.isStalled = false) (r : Reply) (q : Port) :
    ((s.finish p r).port q).phase.isStalled = (s.port q).phase.isStalled := by
  rw [port_finish]
  split
  next hq => rw [hq, h]; rfl
  · rfl

theorem fetchData_isStalled (s : State) (p : Port) (a : PhysAddr) (w : Word) (q : Port) :
    ((s.fetchData p a w).port q).phase.isStalled = (s.port q).phase.isStalled := by
  unfold State.fetchData
  split
  next memory => exact finish_isStalled (s := s.setEntry _ _) (by rw [setEntry_port, memoryTransaction_some memory]; rfl) ..
  next memory =>
    exact finish_isStalled (s := (s.freeSlot _).logFault _)
      (by rw [logFault_port, State.freeSlot, setEntry_port, memoryTransaction_some memory]; rfl) ..
  · rfl
  · rfl
  · rfl

theorem fetchError_isStalled (s : State) (p : Port) (a : PhysAddr) (q : Port) :
    ((s.fetchError p a).port q).phase.isStalled = (s.port q).phase.isStalled := by
  unfold State.fetchError
  split
  next memory =>
    exact finish_isStalled (s := (s.freeSlot _).logFault _)
      (by rw [logFault_port, State.freeSlot, setEntry_port, memoryTransaction_some memory]; rfl) ..
  next memory =>
    exact finish_isStalled (s := ((s.freeSlot _).logFault _).logFault _)
      (by rw [logFault_port, logFault_port, State.freeSlot, setEntry_port, memoryTransaction_some memory]; rfl) ..
  · rfl
  · rfl
  · rfl

/-! ### The changes of the lists -/

theorem stalls_zero {s : State} (hs : s.StallsSound) {q : Port} (h : (s.port q).phase.isStalled = false) (i : Slot) :
    waitsOf (s.entry i).waiters q = 0 :=
  waitRecords_zero.1 ((hs q).trans (by simp [h])) i

theorem stallsSound_lose {s : State} {cause : LossCause} {i : Slot} {h : HeldEntry} {v : Payload}
    (he : s.entry i = .held { h with payload := v }) (hs : s.StallsSound) : (s.lose cause i h).StallsSound := by
  intro q
  have sums := waitRecords_change (t := s.lose cause i h) q fun j hj => lose_entry_other _ _ _ _ _ hj
  rw [lose_entry, he] at sums
  rw [lose_port]
  have before := hs q
  rcases hw : h.waiters with _ | ⟨w, rest⟩
  · simp only [HeldEntry.afterLoss, hw, Entry.waiters] at sums ⊢
    omega
  · simp only [HeldEntry.afterLoss, hw, Entry.waiters, waitsOf_cons] at sums ⊢
    split
    next told =>
      rw [if_pos told] at sums
      have : (Phase.idle).isStalled = false := rfl
      simp only [this, Bool.false_eq_true, if_false]
      split at before <;> omega
    next untold =>
      rw [if_neg untold] at sums
      omega

theorem stallsSound_leave {s : State} {p : Port} {i : Slot} {h : HeldEntry} (he : s.entry i = .held h) (hs : s.StallsSound)
    (q : Port) (other : q ≠ p ∨ (s.port p).phase.isStalled = false ∨ 0 < waitsOf h.waiters p) :
    (s.setEntry i (.held { h with waiters := without h.waiters p })).waitRecords q =
      if q ≠ p ∧ (s.port q).phase.isStalled then 1 else 0 := by
  have sums := waitRecords_setEntry s i (.held { h with waiters := without h.waiters p }) q
  simp only [he, Entry.waiters, waitsOf_without] at sums
  have before := hs q
  by_cases hq : q = p
  · subst hq
    simp only [if_true] at sums
    simp only [ne_eq, not_true_eq_false, false_and, if_false]
    split at before
    next stalled =>
      have : 0 < waitsOf h.waiters q := by simpa [stalled] using other
      omega
    · omega
  · simp only [if_neg hq] at sums
    simp only [ne_eq, hq, not_false_eq_true, true_and]
    omega

theorem stallsSound_setEntry_same {s : State} {i : Slot} {e : Entry} (hs : s.StallsSound)
    (same : ∀ q, waitsOf e.waiters q = waitsOf (s.entry i).waiters q) : (s.setEntry i e).StallsSound := fun q => by
  have sums := waitRecords_setEntry s i e q
  rw [same q] at sums
  rw [setEntry_port, ← hs q]
  omega

/-- A port that is not stalled stalls with one WAIT record. -/
theorem stallsSound_stall {s : State} {p : Port} {i : Slot} {e : Entry} {r : Request} {a : PhysAddr} {f : ClaimFields}
    (hs : s.StallsSound) (open_ : (s.port p).phase.isStalled = false)
    (record : ∀ q, waitsOf e.waiters q = waitsOf (s.entry i).waiters q + if q = p then 1 else 0) :
    ((s.setEntry i e).stall p r a f).StallsSound := by
  intro q
  have sums := waitRecords_setEntry s i e q
  have before := hs q
  rw [record q] at sums
  rw [show ((s.setEntry i e).stall p r a f).waitRecords q = (s.setEntry i e).waitRecords q from rfl, State.stall, port_setPhase]
  by_cases hq : q = p
  · subst hq
    rw [open_] at before
    rw [if_pos rfl] at sums ⊢
    show _ = 1
    have : s.waitRecords q = 0 := before
    omega
  · simp only [hq, if_false, setEntry_port] at sums ⊢
    omega

theorem stallsSound_convert {s : State} {p : Port} {i : Slot} {h : HeldEntry} {r : Request} {a : PhysAddr} {f : ClaimFields}
    (he : s.entry i = .held h) (open_ : (s.port p).phase.isStalled = false) (listed : enrolled h.waiters p = true)
    (sound : (Entry.held h).listSound = true) (hs : s.StallsSound) :
    ((s.setEntry i (.held { h with waiters := convert h.waiters p f })).stall p r a f).StallsSound := by
  refine stallsSound_stall hs open_ fun q => ?_
  have none_before := stalls_zero hs open_ i
  rw [he] at none_before ⊢
  simp only [Entry.waiters, waitsOf_convert] at none_before ⊢
  split
  next hq =>
    rw [hq, none_before, List.count_eq_one_of_mem (listSound_held.1 sound).2 (enrolled_eq_mem.1 listed)]
  · rfl

/-- The records of a port leave every list. -/
theorem removeWaiters_waitRecords (s : State) (p q : Port) :
    (s.removeWaiters p).waitRecords q = if q = p then 0 else s.waitRecords q := by
  have entry : ∀ i, waitsOf ((s.removeWaiters p).entry i).waiters q =
      if q = p then 0 else waitsOf (s.entry i).waiters q := fun i => by
    rw [removeWaiters_entry]
    cases s.entry i with
    | held h => exact waitsOf_without h.waiters p q
    | _ => exact (ite_self _).symm
  split
  next h =>
    refine waitRecords_zero.2 fun i => ?_
    rw [entry, if_pos h]
  next h =>
    refine waitRecords_congr q fun i => ?_
    rw [entry, if_neg h]

/-- A port that has left every list and does not stall, and the others as they were. -/
theorem stallsSound_removeWaiters {s u : State} {p : Port} (hs : s.StallsSound) (lists : ListsSame s u)
    (others : ∀ q, q ≠ p → (u.port q).phase = (s.port q).phase) (ended : (u.port p).phase.isStalled = false) :
    (u.removeWaiters p).StallsSound := by
  intro q
  rw [removeWaiters_waitRecords, removeWaiters_port]
  by_cases hq : q = p
  · rw [if_pos hq, hq, ended]
    rfl
  · rw [if_neg hq, lists.waitRecords, others q hq]
    exact hs q

theorem stallsSound_loseAll {s : State} (hs : s.StallsSound) (cause : LossCause) (p : Port) :
    (s.loseAll cause p).StallsSound := by
  unfold State.loseAll
  refine forSlots_induct (fun t => t.StallsSound) (State.loseAt cause p) (fun t i ht => ?_) s hs
  unfold State.loseAt
  split
  next h he =>
    split
    · exact stallsSound_lose (v := h.payload) he ht
    · exact ht
  · exact ht

theorem stallsSound_assertReset {s : State} {p : Port} (online : (s.port p).resetAsserted = false) (hs : s.StallsSound) :
    (s.assertReset p).StallsSound := by
  rw [assertReset_eq online]
  refine stallsSound_loseAll (stallsSound_removeWaiters hs (u := ((s.shut p).endByReset p).setNotice p NoticeUnit.empty)
    (listsSame_endByReset (s.shut p) p) (fun q hq => ?_) ?_) .offline p
  · rw [setNotice_port, endByReset_port, shut_port, if_neg hq, if_neg hq]
  · rw [setNotice_port, endByReset_port, if_pos rfl]
    rfl

theorem endByFence_port_other (s : State) {p q : Port} (hq : q ≠ p) : (s.endByFence p).port q = s.port q := by
  rw [endByFence_port]
  split
  · rw [if_neg hq]
  · rw [if_neg hq]
  · rfl

theorem stallsSound_fence {s : State} (hs : s.StallsSound) (p : Port) : (s.fencePort p false).StallsSound := by
  rw [fencePort_eq]
  refine stallsSound_removeWaiters hs (listsSame_endByFence (s.raiseFence p) p) (fun q hq => ?_) ?_
  · rw [endByFence_port_other _ hq, raiseFence_port, if_neg hq]
  · rw [endByFence_port]
    split
    · rw [if_pos rfl]
      rfl
    · rw [if_pos rfl]
      rfl
    next not_queued not_stalled =>
      cases phase : ((s.raiseFence p).port p).phase with
      | stalled t => exact absurd phase (not_stalled t)
      | _ => rfl

/-! ### The invariant -/

theorem Change.stallsSound {s t : State} (h : Change s t) (lists : s.ListsSound) (hs : s.StallsSound) : t.StallsSound := by
  have unlisted : ∀ {u : State}, ListsSame s u → (∀ q, (u.port q).phase.isStalled = (s.port q).phase.isStalled) → u.StallsSound :=
    fun same phases => same.stallsSound hs phases
  have ports_same : ∀ {u : State}, u.ports = s.ports → ∀ q, (u.port q).phase.isStalled = (s.port q).phase.isStalled :=
    fun ports q => by rw [port_eq_of_ports ports]
  have none_stalled : ∀ {p : Port}, s.Open p → (s.port p).phase.isStalled = false := fun opened => by
    rw [opened.1]
    rfl
  have begun : ∀ {u : State} {p : Port} {ph : Phase}, s.Open p → u.ports = s.ports → ph.isStalled = false →
      ∀ q, ((u.setPhase p ph).port q).phase.isStalled = (s.port q).phase.isStalled := by
    intro u p ph opened ports not_stalled q
    rw [setPhase_isStalled (by rw [not_stalled, ports_same ports, none_stalled opened]), ports_same ports]
  have ended : ∀ {u : State} {p : Port} (r : Reply), (s.port p).phase.isStalled = false → u.ports = s.ports →
      ∀ q, ((u.finish p r).port q).phase.isStalled = (s.port q).phase.isStalled := by
    intro u p r not_stalled ports q
    rw [finish_isStalled (by rw [ports_same ports, not_stalled]), ports_same ports]
  cases h with
  | unpresent p => exact unlisted (fun _ => rfl) fun q => congrArg Phase.isStalled (setPresented_phase s p none q)
  | reply p r =>
    refine unlisted (fun _ => rfl) fun q => ?_
    rw [port_reply]
    split <;> rfl
  | notify => exact unlisted (fun i => by rw [notify_entry]) (ports_same (notify_ports ..))
  | clearFence p => exact unlisted (fun _ => rfl) fun q => congrArg Phase.isStalled (unfencePort_phase s p q)
  | clearReset p => exact unlisted (fun _ => rfl) fun q => congrArg Phase.isStalled (deassertReset_phase s p q)
  | queue p t opened => exact unlisted (fun _ => rfl) (begun opened rfl rfl)
  | allocate p r a f i opened absent lowest =>
    exact unlisted (listsSame_setEntry (s := s) (by rw [lowestFree_free lowest]; rfl))
      (begun (u := s.setEntry _ _) opened rfl rfl)
  | renew i h he => exact unlisted (listsSame_setEntry (by rw [he]; rfl)) fun _ => rfl
  | enrol i h w he opened _ _ queue =>
    refine stallsSound_setEntry_same hs fun q => ?_
    have unwaited : w.waits = false := by simp [Waiter.waits, queue]
    rw [he]
    simp [HeldEntry.enrol, Entry.waiters, waitsOf_append_one, unwaited]
  | stall p r a f i h he opened =>
    refine stallsSound_stall hs (none_stalled opened) fun q => ?_
    rw [he]
    simp [HeldEntry.enrol, Entry.waiters, waitsOf_append_one, waitMode_waits]
  | convert p r a f i h he opened _ listed =>
    exact stallsSound_convert he (none_stalled opened) listed (he ▸ lists i) hs
  | revive p f i r he =>
    refine unlisted (fun j => ?_) fun q => ?_
    · rw [entry_eq_of_table (revive_table s p f i r)]
      exact listsSame_setEntry (by rw [he]; rfl) j
    · rw [revive_port]
      split <;> rfl
  | lose cause i h v he => exact stallsSound_lose he hs
  | withdraw p i h he idle =>
    intro q
    rw [stallsSound_leave he hs q (.inr (.inl (by rw [idle]; rfl))), setEntry_port]
    by_cases hq : q = p
    · simp [hq, idle, Phase.isStalled]
    · simp [hq]
  | timeOut p i h r he waits =>
    intro q
    obtain ⟨w, listed, rfl, waits⟩ := waits
    rw [show ∀ u : State, (u.finish w.port r).waitRecords q = u.waitRecords q from fun _ => rfl,
      stallsSound_leave he hs q (.inr (.inr (waitsOf_pos listed waits))), port_finish, setEntry_port]
    by_cases hq : q = w.port
    · simp [hq, Phase.isStalled]
    · simp [hq]
  | issue p t _ queued =>
    refine unlisted (fun _ => rfl) fun q => ?_
    rw [State.issue, setPhase_isStalled (by rw [setOperation_port, queued]; rfl), setOperation_port]
  | refuseGrant p t r queued => exact unlisted (fun _ => rfl) (ended r (by rw [queued]; rfl) rfl)
  | grantWriteBack => exact unlisted (listsSame_grantWriteBack s) (ports_same (grantWriteBack_ports s))
  | returned p work a t r _ _ memory =>
    exact unlisted (fun _ => rfl) (ended (u := s.setOperation none) r (by rw [memory]; rfl) rfl)
  | fetchData => exact unlisted (listsSame_fetchData (s.setOperation none) _ _ _) (fetchData_isStalled (s.setOperation none) _ _ _)
  | fetchError => exact unlisted (listsSame_fetchError (s.setOperation none) _ _) (fetchError_isStalled (s.setOperation none) _ _)
  | writeBackDone =>
    exact unlisted (listsSame_writeBackDone (s.setOperation none) _) (ports_same (writeBackDone_ports (s.setOperation none) _))
  | writeBackError =>
    exact unlisted (listsSame_writeBackError (s.setOperation none) _ _ _)
      (ports_same (writeBackError_ports (s.setOperation none) ..))
  | assertReset p online => exact stallsSound_assertReset online hs
  | fence p => exact stallsSound_fence hs p
  | _ => exact hs

theorem stallsSound_ticked {s : State} (hs : s.StallsSound) : (s.forSlots State.tickAt).StallsSound := by
  intro q
  rw [port_eq_of_ports (ticked_ports s), ← hs q]
  refine waitRecords_congr q fun i => ?_
  rw [ticked_entry]
  cases s.entry i with
  | held h => exact waitsOf_counted h.waiters q
  | _ => rfl

theorem Change.listsSound {s t : State} (h : Change s t) (hs : s.ListsSound) : t.ListsSound :=
  kept_of_each (fun _ _ c => c.listsSound) h.tableChanges hs

theorem stallsSound_outer {s t : State} (h : Outer s t) (hs : s.StallsSound) : t.StallsSound := by
  cases h with
  | present p r =>
    exact ListsSame.stallsSound (s := s) (fun _ => rfl) hs fun q => congrArg Phase.isStalled (setPresented_phase s p (some r) q)
  | clearSlot i a k w he =>
    exact (listsSame_setEntry (by rw [he]; rfl)).stallsSound hs fun _ => rfl
  | _ => exact hs

theorem stallsSound_partReset (s : State) : s.assertPartReset.StallsSound := fun q => by
  rw [assertPartReset_port]
  exact waitRecords_zero.2 fun i => by rw [assertPartReset_entry]; rfl

theorem listsAndStallsSound_kept : KeptByStep fun s => s.ListsSound ∧ s.StallsSound :=
  keptByStep_of_changes (fun _ _ h hs => ⟨h.listsSound hs.1, h.stallsSound hs.1 hs.2⟩)
    (fun s t h hs => ⟨h.listsSound hs.1, stallsSound_outer h hs.2⟩)
    (takeTick_kept (fun _ _ h hs => ⟨h.listsSound hs.1, h.stallsSound hs.1 hs.2⟩)
      fun s hs => ⟨listsSound_ticked s hs.1, stallsSound_ticked hs.2⟩)
    fun s _ => ⟨fun i => by rw [assertPartReset_entry]; rfl, stallsSound_partReset s⟩

/-- Settles O56: a tick's expiries leave no count at 0, and a port stalls and ceases to with its WAIT record. -/
theorem everyStepKeepsCountsAndStallsSound : Obligations.EveryStepKeepsCountsAndStallsSound :=
  ⟨countsSound_kept, listsAndStallsSound_kept⟩

end Sys2Proof.Machine
end

section
/-! Grant fetches: where a fetch's entry stands, what ends a fetch, and the agreement of transactions, the operation in flight and
FETCHING entries that every step keeps (R7 to R11, R137, R141, R143). -/

namespace Sys2Proof.Machine

/-! ### The FETCHING entry of a word -/

theorem fetchingAt_of_entry {s : State} (distinct : s.AddressesDistinct) {i : Slot} {a : PhysAddr} {p : Port} {m : OrphanMark}
    (he : s.entry i = .fetching a p m) : s.fetchingAt a = some (i, m) := by
  rw [State.fetchingAt, lookup_eq_some distinct (i := i) (by rw [he]; rfl)]
  simp [he]

theorem orphan_of_entry {s : State} (distinct : s.AddressesDistinct) {i : Slot} {a : PhysAddr} {p : Port} {m : OrphanMark}
    (he : s.entry i = .fetching a p m) (f : OrphanMark → OrphanMark) : s.orphan a f = s.setEntry i (.fetching a p (f m)) := by
  rw [State.orphan, lookup_eq_some distinct (i := i) (by rw [he]; rfl)]
  simp [he]

theorem withdraw_of_entry {s : State} (distinct : s.AddressesDistinct) {i : Slot} {t : Transaction} {p : Port} {m : OrphanMark}
    (he : s.entry i = .fetching t.physical p m) (fetch : t.purpose = .grantFetch) : s.withdraw t = s.freeSlot i := by
  rw [State.withdraw, if_pos fetch, fetchingAt_of_entry distinct he]

theorem withdraw_of_other {t : Transaction} (fetch : t.purpose ≠ .grantFetch) (s : State) : s.withdraw t = s := by
  rw [State.withdraw, if_neg fetch]

theorem fetching_unique {s : State} (distinct : s.AddressesDistinct) {i j : Slot} {a : PhysAddr} {p q : Port} {m n : OrphanMark}
    (hi : s.entry i = .fetching a p m) (hj : s.entry j = .fetching a q n) : i = j :=
  distinct i j (by rw [hi]; rfl) (by rw [hi, hj]; rfl)

theorem work_grantFetch {t : Transaction} : t.work = .grantFetch ↔ t.purpose = .grantFetch := by
  cases hp : t.purpose <;> cases hd : t.request.direction <;> simp [Transaction.work, hp, hd]

/-! ### Changes that a fetch does not see -/

/-- A transaction that a port's operation or FETCHING entry answers to: in memory, or a fetch that is QUEUED. -/
def Phase.fetches : Phase → Bool
  | .inMemory _ => true
  | .queued t => t.purpose = .grantFetch
  | _ => false

/-- The ports' operations, the FETCHING entries and the transactions that answer to them are as they were. -/
structure FetchSame (s t : State) : Prop where
  operation : ∀ p work a g, t.memPort.operation = some (.ofPort p work a g) ↔ s.memPort.operation = some (.ofPort p work a g)
  entries : ∀ i a p m, t.entry i = .fetching a p m ↔ s.entry i = .fetching a p m
  phases : ∀ p, (t.port p).phase = (s.port p).phase ∨ ((s.port p).phase.fetches = false ∧ (t.port p).phase.fetches = false)

theorem FetchSame.refl (s : State) : FetchSame s s := ⟨fun _ _ _ _ => Iff.rfl, fun _ _ _ _ => Iff.rfl, fun _ => .inl rfl⟩

theorem FetchSame.phase {s t : State} (h : FetchSame s t) {p : Port} (f : (t.port p).phase.fetches = true) :
    (t.port p).phase = (s.port p).phase := by
  rcases h.phases p with same | ⟨-, none_now⟩
  · exact same
  · rw [none_now] at f
    cases f

theorem FetchSame.symm {s t : State} (h : FetchSame s t) : FetchSame t s :=
  ⟨fun p w a g => (h.operation p w a g).symm, fun i a p m => (h.entries i a p m).symm,
    fun p => (h.phases p).imp Eq.symm And.symm⟩

theorem FetchSame.fetchesSound {s t : State} (h : FetchSame s t) (hs : s.FetchesSound) : t.FetchesSound := by
  obtain ⟨memory, queued, fetched, flight, entry⟩ := hs
  have phase : ∀ {p ph}, (t.port p).phase = ph → ph.fetches = true → (s.port p).phase = ph := fun {p ph} at_t fetches =>
    (h.phase (by rw [at_t]; exact fetches)).symm.trans at_t
  have phase' : ∀ {p ph}, (s.port p).phase = ph → ph.fetches = true → (t.port p).phase = ph := fun {p ph} at_s fetches =>
    (h.symm.phase (by rw [at_s]; exact fetches)).symm.trans at_s
  refine ⟨fun p u hu => (h.operation ..).2 (memory p u (phase hu rfl)), fun p u hu purpose => ?_, fun p u hu purpose => ?_,
    fun p a g ho => ?_, fun i a p m he => ?_⟩
  · obtain ⟨i, he⟩ := queued p u (phase hu (by simpa [Phase.fetches] using purpose)) purpose
    exact ⟨i, (h.entries ..).2 he⟩
  · obtain ⟨i, m, he, hm⟩ := fetched p u (phase hu rfl) purpose
    exact ⟨i, m, (h.entries ..).2 he, hm⟩
  · obtain ⟨i, m, he, hm⟩ := flight p a g ((h.operation ..).1 ho)
    exact ⟨i, m, (h.entries ..).2 he, hm.imp id fun ⟨u, hu⟩ => ⟨u, phase' hu rfl⟩⟩
  · rcases entry i a p m ((h.entries ..).1 he) with ⟨hm, u, hu, purpose, hp⟩ | ⟨g, ho⟩
    · exact .inl ⟨hm, u, phase' hu (by simpa [Phase.fetches] using purpose), purpose, hp⟩
    · exact .inr ⟨g, (h.operation ..).2 ho⟩

/-- Is the entry FETCHING? -/
def Entry.isFetching : Entry → Bool
  | .fetching _ _ _ => true
  | _ => false

theorem ne_fetching {e : Entry} (h : e.isFetching = false) (a : PhysAddr) (p : Port) (m : OrphanMark) : e ≠ .fetching a p m := by
  rintro rfl
  cases h

/-- The entry is as it was, or was not FETCHING and is not. -/
def EntrySame (e e' : Entry) : Prop := e' = e ∨ (e.isFetching = false ∧ e'.isFetching = false)

theorem EntrySame.iff {e e' : Entry} (h : EntrySame e e') (a : PhysAddr) (p : Port) (m : OrphanMark) :
    e' = .fetching a p m ↔ e = .fetching a p m := by
  rcases h with same | ⟨before, after⟩
  · rw [same]
  · exact iff_of_false (ne_fetching after a p m) (ne_fetching before a p m)

/-- Entries that are not FETCHING may be replaced by others that are not. -/
theorem fetchSame_of {s t : State} (operation : t.memPort.operation = s.memPort.operation)
    (entries : ∀ i, EntrySame (s.entry i) (t.entry i))
    (phases : ∀ p, (t.port p).phase = (s.port p).phase ∨ ((s.port p).phase.fetches = false ∧ (t.port p).phase.fetches = false)) :
    FetchSame s t :=
  ⟨fun _ _ _ _ => by rw [operation], fun i => (entries i).iff, phases⟩

theorem entrySame_setEntry {s : State} {i : Slot} {e e₀ : Entry} (he : s.entry i = e₀) (before : e₀.isFetching = false)
    (after : e.isFetching = false) (j : Slot) : EntrySame (s.entry j) ((s.setEntry i e).entry j) := by
  by_cases hj : j = i
  · subst hj
    rw [entry_setEntry_same, he]
    exact .inr ⟨before, after⟩
  · exact .inl (entry_setEntry_other _ _ _ _ hj)

theorem afterLoss_isFetching (h : HeldEntry) : h.afterLoss.isFetching = false := by
  unfold HeldEntry.afterLoss
  split <;> rfl

theorem afterLeaving_entrySame (e : Entry) (p : Port) (lose : Bool) : EntrySame e (e.afterLeaving p lose) := by
  cases e with
  | held h =>
    refine .inr ⟨rfl, ?_⟩
    simp only [Entry.afterLeaving]
    split
    · exact afterLoss_isFetching _
    · rfl
  | _ => exact .inl rfl

theorem phases_same {s t : State} (h : ∀ q, (t.port q).phase = (s.port q).phase) (p : Port) :
    (t.port p).phase = (s.port p).phase ∨ ((s.port p).phase.fetches = false ∧ (t.port p).phase.fetches = false) := .inl (h p)

theorem phases_ports {s t : State} (h : t.ports = s.ports) (p : Port) :
    (t.port p).phase = (s.port p).phase ∨ ((s.port p).phase.fetches = false ∧ (t.port p).phase.fetches = false) :=
  .inl (by rw [port_eq_of_ports h])

theorem phases_setPhase {s u : State} {p : Port} {ph : Phase} (ports : u.ports = s.ports) (before : (s.port p).phase.fetches = false)
    (after : ph.fetches = false) (q : Port) : ((u.setPhase p ph).port q).phase = (s.port q).phase ∨
      ((s.port q).phase.fetches = false ∧ ((u.setPhase p ph).port q).phase.fetches = false) := by
  rw [port_setPhase]
  split
  next h => exact .inr ⟨h ▸ before, after⟩
  · exact .inl (by rw [port_eq_of_ports ports])

theorem phases_finish {s u : State} {p : Port} (r : Reply) (ports : u.ports = s.ports) (before : (s.port p).phase.fetches = false)
    (q : Port) : ((u.finish p r).port q).phase = (s.port q).phase ∨
      ((s.port q).phase.fetches = false ∧ ((u.finish p r).port q).phase.fetches = false) := by
  rw [port_finish]
  split
  next h => exact .inr ⟨h ▸ before, rfl⟩
  · exact .inl (by rw [port_eq_of_ports ports])

/-- A WAIT record's port is STALLED. -/
theorem stalled_of_waits {s : State} (hs : s.StallsSound) {i : Slot} {w : Waiter} (listed : w ∈ (s.entry i).waiters)
    (waits : w.waits = true) : ∃ u, (s.port w.port).phase = .stalled u := by
  cases phase : (s.port w.port).phase with
  | stalled u => exact ⟨u, rfl⟩
  | _ =>
    have none_there := stalls_zero hs (q := w.port) (by rw [phase]; rfl) i
    have := waitsOf_pos listed waits
    omega

theorem fetchSame_lose {s : State} {cause : LossCause} {i : Slot} {h : HeldEntry} {v : Payload}
    (he : s.entry i = .held { h with payload := v }) (stalls : s.StallsSound) : FetchSame s (s.lose cause i h) := by
  refine fetchSame_of (by simp) (fun j => ?_) fun q => ?_
  · by_cases hj : j = i
    · subst hj
      rw [lose_entry]
      exact .inr ⟨by rw [he]; rfl, afterLoss_isFetching h⟩
    · exact .inl (lose_entry_other _ _ _ _ _ hj)
  · rw [lose_port]
    split
    · exact .inl rfl
    next w rest hw =>
      split
      next told =>
        obtain ⟨u, stalled⟩ := stalled_of_waits stalls (i := i) (w := w) (by rw [he]; exact hw ▸ List.mem_cons_self) told.2
        refine .inr ⟨?_, rfl⟩
        rw [told.1, stalled]
        rfl
      · exact .inl rfl

theorem fetchSame_loseAll {s : State} (stalls : s.StallsSound) (fetches : s.FetchesSound) (cause : LossCause) (p : Port) :
    (s.loseAll cause p).FetchesSound := by
  unfold State.loseAll
  refine (forSlots_induct (fun t => t.StallsSound ∧ t.FetchesSound) (State.loseAt cause p) (fun t i ht => ?_) s
    ⟨stalls, fetches⟩).2
  unfold State.loseAt
  split
  next h he =>
    split
    · exact ⟨stallsSound_lose (v := h.payload) he ht.1, (fetchSame_lose (v := h.payload) he ht.1).fetchesSound ht.2⟩
    · exact ht
  · exact ht

theorem removeWaiters_operation (s : State) (p : Port) : (s.removeWaiters p).memPort = s.memPort := by
  simpa only using congrArg State.memPort (removeWaiters_frame s p)

theorem fetchSame_removeWaiters (s : State) (p : Port) : FetchSame s (s.removeWaiters p) :=
  fetchSame_of (by rw [removeWaiters_operation]) (fun j => by rw [removeWaiters_entry]; exact afterLeaving_entrySame ..)
    (phases_ports (removeWaiters_ports s p))

/-! ### The end of a fetch -/

/-- The fetch of the port `p` at the FETCHING entry of slot `i` for the word `a` has ended. -/
structure FetchEnded (s t : State) (i : Slot) (a : PhysAddr) (p : Port) : Prop where
  others : ∀ j, j ≠ i → t.entry j = s.entry j
  freed : ∀ b q m, t.entry i ≠ .fetching b q m
  operation : t.memPort.operation = s.memPort.operation ∨
    (t.memPort.operation = none ∧ ∃ g, s.memPort.operation = some (.ofPort p .grantFetch a g))
  landed : ∀ g, t.memPort.operation ≠ some (.ofPort p .grantFetch a g)
  phases : ∀ q, (t.port q).phase = (s.port q).phase ∨ (q = p ∧ (t.port q).phase.fetches = false)
  answers : (t.port p).phase = (s.port p).phase ∨ ∀ u, (s.port p).phase = .queued u → u.purpose = .grantFetch → u.physical = a
  out : ∀ u, (t.port p).phase ≠ .inMemory u
  elsewhere : ∀ u, (t.port p).phase = .queued u → u.purpose = .grantFetch → u.physical ≠ a
  memory : ∀ u, (s.port p).phase = .inMemory u → t.memPort.operation = none

theorem FetchEnded.fetchesSound {s t : State} {i : Slot} {a : PhysAddr} {p : Port} {m : OrphanMark} (h : FetchEnded s t i a p)
    (he : s.entry i = .fetching a p m) (distinct : s.AddressesDistinct) (hs : s.FetchesSound) : t.FetchesSound := by
  obtain ⟨memory, queued, fetched, flight, entry⟩ := hs
  have phase : ∀ {q ph}, (t.port q).phase = ph → ph.fetches = true → (s.port q).phase = ph := fun {q ph} at_t fetches => by
    rcases h.phases q with same | ⟨-, none_now⟩
    · exact same.symm.trans at_t
    · rw [at_t, fetches] at none_now
      cases none_now
  have in_memory : ∀ {q u}, (t.port q).phase = .inMemory u → q ≠ p := fun hu hq => h.out _ (hq ▸ hu)
  have op : ∀ {o}, t.memPort.operation = some o → s.memPort.operation = some o := fun ho => by
    rcases h.operation with same | ⟨none_now, -⟩
    · exact same ▸ ho
    · rw [none_now] at ho
      cases ho
  have op_other : ∀ {q work b g}, q ≠ p → s.memPort.operation = some (.ofPort q work b g) →
      t.memPort.operation = some (.ofPort q work b g) := fun hq ho => by
    rcases h.operation with same | ⟨-, g, was⟩
    · exact same ▸ ho
    · rw [was] at ho
      cases ho
      exact absurd rfl hq
  have kept : ∀ {j b q n}, s.entry j = .fetching b q n → (q ≠ p ∨ b ≠ a) → t.entry j = .fetching b q n := by
    intro j b q n hj other
    rw [h.others j]
    · exact hj
    · rintro rfl
      rw [he] at hj
      cases hj
      exact other.elim (absurd rfl) (absurd rfl)
  refine ⟨fun q u hu => op_other (in_memory hu) (memory q u (phase hu rfl)), fun q u hu purpose => ?_,
    fun q u hu purpose => ?_, fun q b g ho => ?_, fun j b q n hj => ?_⟩
  · obtain ⟨j, hj⟩ := queued q u (phase hu (by simpa [Phase.fetches] using purpose)) purpose
    refine ⟨j, kept hj ?_⟩
    by_cases hq : q = p
    · exact .inr (h.elsewhere u (hq ▸ hu) purpose)
    · exact .inl hq
  · obtain ⟨j, n, hj, hn⟩ := fetched q u (phase hu rfl) purpose
    exact ⟨j, n, kept hj (.inl (in_memory hu)), hn⟩
  · obtain ⟨j, n, hj, hn⟩ := flight q b g (op ho)
    refine ⟨j, n, kept hj ?_, hn.imp id fun ⟨u, hu⟩ => ⟨u, ?_⟩⟩
    · by_cases hq : q = p
      · exact .inr fun hb => h.landed g (by rw [← hq, ← hb]; exact ho)
      · exact .inl hq
    · rcases h.phases q with same | ⟨hq, -⟩
      · exact same.trans hu
      · rw [h.memory u (hq ▸ hu)] at ho
        cases ho
  · have hji : j ≠ i := fun hji => h.freed b q n (hji ▸ hj)
    rw [h.others j hji] at hj
    rcases entry j b q n hj with ⟨hn, u, hu, purpose, hb⟩ | ⟨g, ho⟩
    · refine .inl ⟨hn, u, ?_, purpose, hb⟩
      rcases h.phases q with same | ⟨rfl, none_now⟩
      · exact same.trans hu
      · rcases h.answers with same | answers
        · exact same.trans hu
        · have word := answers u hu purpose
          exact absurd (fetching_unique distinct he (by rw [hj, ← hb, word])).symm hji
    · rcases h.operation with same | ⟨-, g', was⟩
      · exact .inr ⟨g, same ▸ ho⟩
      · rw [was] at ho
        cases ho
        exact absurd (fetching_unique distinct he hj).symm hji

/-! ### Operations that are no fetch -/

/-- A port's operation that is no fetch ends, or is given up. -/
theorem fetchesSound_endPort {s t : State} {p : Port} {work : PortWork} {a : PhysAddr} {g : Bool} (hs : s.FetchesSound)
    (was : s.memPort.operation = some (.ofPort p work a g)) (no_fetch : work ≠ .grantFetch)
    (now : ∀ q b g, t.memPort.operation ≠ some (.ofPort q .grantFetch b g)) (entries : ∀ i, t.entry i = s.entry i)
    (phases : ∀ q, (t.port q).phase = (s.port q).phase ∨
      (q = p ∧ (t.port q).phase.fetches = false ∧ ∃ u, (s.port q).phase = .inMemory u))
    (out : ∀ u, (t.port p).phase ≠ .inMemory u) : t.FetchesSound := by
  obtain ⟨memory, queued, fetched, flight, entry⟩ := hs
  have phase : ∀ {q ph}, (t.port q).phase = ph → ph.fetches = true → (s.port q).phase = ph := fun {q ph} at_t fetches => by
    rcases phases q with same | ⟨-, none_now, -⟩
    · exact same.symm.trans at_t
    · rw [at_t, fetches] at none_now
      cases none_now
  have no_memory : ∀ {q u}, (t.port q).phase ≠ .inMemory u := fun {q u} hu => by
    have there := memory q u (phase hu rfl)
    rw [was] at there
    cases there
    exact out u hu
  refine ⟨fun q u hu => absurd hu no_memory, fun q u hu purpose => ?_, fun q u hu => absurd hu no_memory,
    fun q b g ho => absurd ho (now q b g), fun j b q n hj => ?_⟩
  · simp only [entries]
    exact queued q u (phase hu (by simpa [Phase.fetches] using purpose)) purpose
  · rw [entries] at hj
    rcases entry j b q n hj with ⟨hn, u, hu, purpose, hb⟩ | ⟨g', ho⟩
    · refine .inl ⟨hn, u, ?_, purpose, hb⟩
      rcases phases q with same | ⟨-, -, v, hv⟩
      · exact same.trans hu
      · rw [hu] at hv
        cases hv
    · rw [was] at ho
      cases ho
      exact absurd rfl no_fetch

/-! ### The beginnings of a fetch -/

theorem fetchesSound_allocate {s : State} {p : Port} {r : Request} {a : PhysAddr} {f : ClaimFields} {i : Slot}
    (hs : s.FetchesSound) (idle : (s.port p).phase = .idle) (free : s.entry i = .free) : (s.allocate p r a f i).FetchesSound := by
  obtain ⟨memory, queued, fetched, flight, entry⟩ := hs
  have port_p : ((s.allocate p r a f i).port p).phase =
      .queued { request := r, physical := a, target := .claim f, purpose := .grantFetch } := by
    rw [State.allocate, port_setPhase_same]
  have port_other : ∀ {q}, q ≠ p → ((s.allocate p r a f i).port q).phase = (s.port q).phase := fun hq => by
    rw [State.allocate, port_setPhase_other _ _ _ _ hq, setEntry_port]
  have entry_i : (s.allocate p r a f i).entry i = .fetching a p .none := entry_setEntry_same ..
  have entry_other : ∀ {j}, j ≠ i → (s.allocate p r a f i).entry j = s.entry j := fun hj => entry_setEntry_other _ _ _ _ hj
  have kept : ∀ {j b q n}, s.entry j = .fetching b q n → (s.allocate p r a f i).entry j = .fetching b q n := fun {j b q n} hj => by
    rw [entry_other, hj]
    rintro rfl
    rw [free] at hj
    cases hj
  have not_idle : ∀ {q ph}, (s.port q).phase = ph → ph ≠ .idle → q ≠ p := fun {q ph} hq hph hqp => hph (by rw [← hq, hqp, idle])
  have in_memory : ∀ {q u}, ((s.allocate p r a f i).port q).phase = .inMemory u → (s.port q).phase = .inMemory u :=
    fun {q u} hu => by
      rwa [port_other] at hu
      rintro rfl
      rw [port_p] at hu
      cases hu
  refine ⟨fun q u hu => memory q u (in_memory hu), fun q u hu purpose => ?_, fun q u hu purpose => ?_, fun q b g ho => ?_,
    fun j b q n hj => ?_⟩
  · by_cases hq : q = p
    · rw [hq, port_p] at hu
      cases hu
      exact ⟨i, hq ▸ entry_i⟩
    · rw [port_other hq] at hu
      obtain ⟨j, hj⟩ := queued q u hu purpose
      exact ⟨j, kept hj⟩
  · obtain ⟨j, n, hj, hn⟩ := fetched q u (in_memory hu) purpose
    exact ⟨j, n, kept hj, hn⟩
  · obtain ⟨j, n, hj, hn⟩ := flight q b g ho
    exact ⟨j, n, kept hj, hn.imp id fun ⟨u, hu⟩ => ⟨u, (port_other (not_idle hu nofun)).trans hu⟩⟩
  · by_cases hji : j = i
    · rw [hji, entry_i] at hj
      cases hj
      exact .inl ⟨rfl, _, port_p, rfl, rfl⟩
    · rw [entry_other hji] at hj
      rcases entry j b q n hj with ⟨hn, u, hu, rest⟩ | flown
      · exact .inl ⟨hn, u, (port_other (not_idle hu nofun)).trans hu, rest⟩
      · exact .inr flown

theorem fetchesSound_issue {s : State} {p : Port} {t : Transaction} (hs : s.FetchesSound) (none_flies : s.memPort.operation = none)
    (hq : (s.port p).phase = .queued t) : (s.issue p t).FetchesSound := by
  obtain ⟨memory, queued, fetched, flight, entry⟩ := hs
  have port_p : ((s.issue p t).port p).phase = .inMemory t := by rw [State.issue, port_setPhase_same]
  have port_other : ∀ {q}, q ≠ p → ((s.issue p t).port q).phase = (s.port q).phase := fun hq => by
    rw [State.issue, port_setPhase_other _ _ _ _ hq, setOperation_port]
  have operation : (s.issue p t).memPort.operation = some (.ofPort p t.work t.physical false) := rfl
  have only_p : ∀ {q u}, ((s.issue p t).port q).phase = .inMemory u → q = p ∧ u = t := fun {q u} hu => by
    by_cases hqp : q = p
    · rw [hqp, port_p] at hu
      exact ⟨hqp, (Phase.inMemory.inj hu).symm⟩
    · rw [port_other hqp] at hu
      have there := memory q u hu
      rw [none_flies] at there
      cases there
  refine ⟨fun q u hu => ?_, fun q u hu purpose => ?_, fun q u hu purpose => ?_, fun q b g ho => ?_, fun j b q n hj => ?_⟩
  · obtain ⟨rfl, rfl⟩ := only_p hu
    exact operation
  · have hqp : q ≠ p := by
      rintro rfl
      rw [port_p] at hu
      cases hu
    exact queued q u (port_other hqp ▸ hu) purpose
  · obtain ⟨rfl, rfl⟩ := only_p hu
    obtain ⟨j, hj⟩ := queued q u hq purpose
    exact ⟨j, .none, hj, nofun⟩
  · rw [operation] at ho
    obtain ⟨rfl, work, rfl, -⟩ := Operation.ofPort.inj (Option.some.inj ho)
    obtain ⟨j, hj⟩ := queued p t hq (work_grantFetch.1 work)
    exact ⟨j, .none, hj, .inr ⟨t, port_p⟩⟩
  · rcases entry j b q n hj with ⟨hn, u, hu, purpose, hb⟩ | ⟨g, ho⟩
    · by_cases hqp : q = p
      · rw [hqp, hq] at hu
        obtain rfl := Phase.queued.inj hu
        exact .inr ⟨false, by rw [operation, work_grantFetch.2 purpose, hqp, hb]⟩
      · exact .inl ⟨hn, u, (port_other hqp).trans hu, purpose, hb⟩
    · rw [none_flies] at ho
      cases ho

/-! ### Marks -/

/-- An orphan mark is set on the entry of a fetch in flight: the port stays IN-MEMORY with a mark other than OFFLINE, or becomes
IDLE with the mark OFFLINE. -/
theorem fetchesSound_mark {s t : State} {p : Port} {u : Transaction} {i : Slot} {m m' : OrphanMark} (hs : s.FetchesSound)
    (memory_p : (s.port p).phase = .inMemory u) (he : s.entry i = .fetching u.physical p m)
    (operation : t.memPort.operation = s.memPort.operation) (entry_i : t.entry i = .fetching u.physical p m')
    (entry_other : ∀ j, j ≠ i → t.entry j = s.entry j) (port_other : ∀ q, q ≠ p → (t.port q).phase = (s.port q).phase)
    (port_p : ((t.port p).phase = .inMemory u ∧ m' ≠ .offline) ∨ ((t.port p).phase = .idle ∧ m' = .offline))
    (fetch : u.purpose = .grantFetch) : t.FetchesSound := by
  obtain ⟨memory, queued, fetched, flight, entry⟩ := hs
  have flies := memory p u memory_p
  rw [work_grantFetch.2 fetch] at flies
  have in_memory : ∀ {q v}, (t.port q).phase = .inMemory v → q = p ∧ v = u ∧ m' ≠ .offline := fun {q v} hv => by
    by_cases hq : q = p
    · rw [hq] at hv
      rcases port_p with ⟨stays, mark⟩ | ⟨idle, -⟩
      · rw [stays] at hv
        exact ⟨hq, (Phase.inMemory.inj hv).symm, mark⟩
      · rw [idle] at hv
        cases hv
    · have there := memory q v (port_other q hq ▸ hv)
      rw [flies] at there
      exact absurd (Operation.ofPort.inj (Option.some.inj there)).1.symm hq
  have kept : ∀ {j b q n}, s.entry j = .fetching b q n → q ≠ p → t.entry j = .fetching b q n := fun {j b q n} hj hq => by
    rw [entry_other, hj]
    rintro rfl
    rw [he] at hj
    cases hj
    exact hq rfl
  refine ⟨fun q v hv => ?_, fun q v hv purpose => ?_, fun q v hv purpose => ?_, fun q b g ho => ?_, fun j b q n hj => ?_⟩
  · obtain ⟨rfl, rfl, -⟩ := in_memory hv
    rw [operation]
    exact memory q v memory_p
  · have hq : q ≠ p := by
      rintro rfl
      rcases port_p with ⟨h, -⟩ | ⟨h, -⟩ <;>
        · rw [h] at hv
          cases hv
    obtain ⟨j, hj⟩ := queued q v (port_other q hq ▸ hv) purpose
    exact ⟨j, kept hj hq⟩
  · obtain ⟨rfl, rfl, mark⟩ := in_memory hv
    exact ⟨i, m', entry_i, mark⟩
  · rw [operation, flies] at ho
    obtain ⟨rfl, -, rfl, -⟩ := Operation.ofPort.inj (Option.some.inj ho)
    refine ⟨i, m', entry_i, ?_⟩
    rcases port_p with ⟨stays, -⟩ | ⟨-, mark⟩
    · exact .inr ⟨u, stays⟩
    · exact .inl mark
  · by_cases hji : j = i
    · rw [hji, entry_i] at hj
      cases hj
      exact .inr ⟨false, operation.trans flies⟩
    · rw [entry_other j hji] at hj
      rcases entry j b q n hj with ⟨hn, v, hv, rest⟩ | flown
      · have hq : q ≠ p := by
          rintro rfl
          rw [memory_p] at hv
          cases hv
        exact .inl ⟨hn, v, (port_other q hq).trans hv, rest⟩
      · exact .inr (operation ▸ flown)

end Sys2Proof.Machine
end

section
/-! Every step keeps transactions, the operation in flight and FETCHING entries in agreement (R7 to R11, R141, R143). -/

namespace Sys2Proof.Machine

/-- The invariants that are kept together. -/
def FetchBundle (s : State) : Prop := s.AddressesDistinct ∧ s.ListsSound ∧ s.StallsSound ∧ s.FetchesSound

/-! ### Completions of a fetch -/

/-- The entry of a fetch in flight, and its port: IN-MEMORY with a mark other than OFFLINE, or marked OFFLINE and not IN-MEMORY
with this fetch. -/
theorem flight_entry {s : State} (distinct : s.AddressesDistinct) (hs : s.FetchesSound) {p : Port} {a : PhysAddr} {g : Bool}
    (ho : s.memPort.operation = some (.ofPort p .grantFetch a g)) :
    ∃ i m, s.entry i = .fetching a p m ∧ s.fetchingAt a = some (i, m) ∧
      ((m ≠ .offline ∧ ∃ u, (s.port p).phase = .inMemory u ∧ u.purpose = .grantFetch ∧ u.physical = a) ∨
        (m = .offline ∧ ∀ u, (s.port p).phase ≠ .inMemory u)) := by
  obtain ⟨memory, queued, fetched, flight, entry⟩ := hs
  obtain ⟨i, m, he, hm⟩ := flight p a g ho
  have own : ∀ {u}, (s.port p).phase = .inMemory u → u.purpose = .grantFetch ∧ u.physical = a ∧ m ≠ .offline := fun {u} hu => by
    have there := memory p u hu
    rw [ho] at there
    obtain ⟨-, work, word, -⟩ := Operation.ofPort.inj (Option.some.inj there)
    have purpose := work_grantFetch.1 work.symm
    obtain ⟨j, n, hj, hn⟩ := fetched p u hu purpose
    rw [← word] at hj
    rw [fetching_unique distinct hj he, he] at hj
    exact ⟨purpose, word.symm, by cases hj; exact hn⟩
  refine ⟨i, m, he, fetchingAt_of_entry distinct he, ?_⟩
  by_cases memory_now : ∃ u, (s.port p).phase = .inMemory u
  · obtain ⟨u, hu⟩ := memory_now
    obtain ⟨purpose, word, mark⟩ := own hu
    exact .inl ⟨mark, u, hu, purpose, word⟩
  · exact .inr ⟨hm.resolve_right memory_now, fun u hu => memory_now ⟨u, hu⟩⟩

/-- A QUEUED fetch and a fetch in flight of one port are of different words. -/
theorem queued_elsewhere {s : State} (distinct : s.AddressesDistinct) (hs : s.FetchesSound) {p : Port} {u : Transaction}
    (hu : (s.port p).phase = .queued u) (fetch : u.purpose = .grantFetch) (g : Bool) :
    s.memPort.operation ≠ some (.ofPort p .grantFetch u.physical g) := fun ho => by
  obtain ⟨i, he⟩ := hs.2.1 p u hu fetch
  obtain ⟨j, m, hj, -, h⟩ := flight_entry distinct hs ho
  rw [fetching_unique distinct hj he, he] at hj
  cases hj
  rcases h with ⟨-, v, hv, -⟩ | ⟨mark, -⟩
  · rw [hu] at hv
    cases hv
  · cases mark

/-- A fetch in flight ends, its entry freed or granted and its port IDLE or as it was. -/
theorem fetchesSound_landed {s t : State} (distinct : s.AddressesDistinct) (hs : s.FetchesSound) {p : Port} {a : PhysAddr}
    {g : Bool} (ho : s.memPort.operation = some (.ofPort p .grantFetch a g)) {i : Slot} {m : OrphanMark}
    (he : s.entry i = .fetching a p m) (operation : t.memPort.operation = none) (others : ∀ j, j ≠ i → t.entry j = s.entry j)
    (freed : ∀ b q n, t.entry i ≠ .fetching b q n)
    (phases : (∀ q, (t.port q).phase = (s.port q).phase) ∧ (∀ u, (s.port p).phase ≠ .inMemory u) ∨
      (∀ q, (t.port q).phase = if q = p then .idle else (s.port q).phase) ∧ ∃ u, (s.port p).phase = .inMemory u) :
    t.FetchesSound := by
  have ended : FetchEnded s t i a p :=
    { others, freed, operation := .inr ⟨operation, g, ho⟩, landed := by simp [operation]
      phases := fun q => by
        rcases phases with ⟨same, -⟩ | ⟨ends, -⟩
        · exact .inl (same q)
        · rw [ends]
          split
          next hq => exact .inr ⟨hq, rfl⟩
          · exact .inl rfl
      answers := by
        rcases phases with ⟨same, -⟩ | ⟨-, v, hv⟩
        · exact .inl (same p)
        · refine .inr fun u hu => ?_
          rw [hv] at hu
          cases hu
      out := fun u hu => by
        rcases phases with ⟨same, out⟩ | ⟨ends, -⟩
        · exact out u (same p ▸ hu)
        · rw [ends, if_pos rfl] at hu
          cases hu
      elsewhere := fun u hu fetch word => by
        rcases phases with ⟨same, -⟩ | ⟨ends, -⟩
        · exact queued_elsewhere distinct hs (same p ▸ hu) fetch g (word ▸ ho)
        · rw [ends, if_pos rfl] at hu
          cases hu
      memory := fun _ _ => operation }
  exact ended.fetchesSound he distinct hs

theorem finish_phase (s : State) (p : Port) (r : Reply) (q : Port) :
    ((s.finish p r).port q).phase = if q = p then .idle else (s.port q).phase := by
  rw [port_finish]
  split <;> rfl

section
variable {s : State} {p : Port} {a : PhysAddr} {g : Bool}

theorem fetchesSound_fetchData (w : Word) (distinct : s.AddressesDistinct) (hs : s.FetchesSound)
    (ho : s.memPort.operation = some (.ofPort p .grantFetch a g)) : ((s.setOperation none).fetchData p a w).FetchesSound := by
  obtain ⟨i, m, he, found, h⟩ := flight_entry distinct hs ho
  have found' : (s.setOperation none).fetchingAt a = some (i, m) := found
  rcases h with ⟨mark, u, hu, -⟩ | ⟨rfl, out⟩
  · have memory : ((s.setOperation none).port p).phase.memoryTransaction = some u := by rw [setOperation_port, hu]; rfl
    cases m with
    | offline => exact absurd rfl mark
    | none =>
      simp only [State.fetchData, found', memory]
      exact fetchesSound_landed distinct hs ho he rfl (fun j hj => entry_setEntry_other _ _ _ _ hj)
        (ne_fetching (by rw [finish_entry, entry_setEntry_same]; rfl)) (.inr ⟨finish_phase _ p _, u, hu⟩)
    | fenced =>
      simp only [State.fetchData, found', memory]
      exact fetchesSound_landed distinct hs ho he rfl (fun j hj => entry_setEntry_other s i j .free hj)
        (by rw [finish_entry, logFault_entry, State.freeSlot, entry_setEntry_same]; nofun)
        (.inr ⟨finish_phase _ p _, u, hu⟩)
  · simp only [State.fetchData, found']
    exact fetchesSound_landed distinct hs ho he rfl (fun j hj => entry_setEntry_other s i j .free hj)
      (by rw [State.freeSlot, entry_setEntry_same]; nofun) (.inl ⟨fun _ => rfl, out⟩)

theorem fetchesSound_fetchError (distinct : s.AddressesDistinct) (hs : s.FetchesSound)
    (ho : s.memPort.operation = some (.ofPort p .grantFetch a g)) : ((s.setOperation none).fetchError p a).FetchesSound := by
  obtain ⟨i, m, he, found, h⟩ := flight_entry distinct hs ho
  have found' : (s.setOperation none).fetchingAt a = some (i, m) := found
  rcases h with ⟨mark, u, hu, -⟩ | ⟨rfl, out⟩
  · have memory : ((s.setOperation none).port p).phase.memoryTransaction = some u := by rw [setOperation_port, hu]; rfl
    cases m with
    | offline => exact absurd rfl mark
    | none =>
      simp only [State.fetchError, found', memory]
      exact fetchesSound_landed distinct hs ho he rfl (fun j hj => entry_setEntry_other s i j .free hj)
        (by rw [finish_entry, logFault_entry, State.freeSlot, entry_setEntry_same]; nofun)
        (.inr ⟨finish_phase _ p _, u, hu⟩)
    | fenced =>
      simp only [State.fetchError, found', memory]
      exact fetchesSound_landed distinct hs ho he rfl (fun j hj => entry_setEntry_other s i j .free hj)
        (by rw [finish_entry, logFault_entry, logFault_entry, State.freeSlot, entry_setEntry_same]; nofun)
        (.inr ⟨finish_phase _ p _, u, hu⟩)
  · simp only [State.fetchError, found']
    exact fetchesSound_landed distinct hs ho he rfl (fun j hj => entry_setEntry_other s i j .free hj)
      (by rw [logFault_entry, State.freeSlot, entry_setEntry_same]; nofun) (.inl ⟨fun _ => rfl, out⟩)

end

/-! ### The end of a transaction by a reset or a fence (R127, R131) -/

/-- A QUEUED fetch is withdrawn, its entry freed and its port IDLE. -/
theorem fetchesSound_withdrawn {s t : State} {p : Port} {u : Transaction} (distinct : s.AddressesDistinct) (hs : s.FetchesSound)
    (hu : (s.port p).phase = .queued u) (operation : t.memPort.operation = s.memPort.operation)
    (entries : t.table = (s.withdraw u).table)
    (phases : ∀ q, (t.port q).phase = if q = p then .idle else (s.port q).phase) : t.FetchesSound := by
  by_cases fetch : u.purpose = .grantFetch
  · obtain ⟨i, he⟩ := hs.2.1 p u hu fetch
    rw [withdraw_of_entry distinct he fetch] at entries
    have entry : ∀ j, t.entry j = (s.freeSlot i).entry j := entry_eq_of_table entries
    have ended : FetchEnded s t i u.physical p :=
      { others := fun j hj => by rw [entry, State.freeSlot, entry_setEntry_other _ _ _ _ hj]
        freed := by rw [entry, State.freeSlot, entry_setEntry_same]; nofun
        operation := .inl operation
        landed := fun g => by
          rw [operation]
          exact queued_elsewhere distinct hs hu fetch g
        phases := fun q => by
          rw [phases]
          split
          next hq => exact .inr ⟨hq, rfl⟩
          · exact .inl rfl
        answers := .inr fun v hv _ => by
          rw [hu] at hv
          rw [Phase.queued.inj hv]
        out := by rw [phases, if_pos rfl]; nofun
        elsewhere := by rw [phases, if_pos rfl]; nofun
        memory := fun v hv => by
          rw [hu] at hv
          cases hv }
    exact ended.fetchesSound he distinct hs
  · rw [withdraw_of_other fetch] at entries
    refine (fetchSame_of operation (fun j => .inl (entry_eq_of_table entries j)) fun q => ?_).fetchesSound hs
    rw [phases]
    split
    next hq =>
      refine .inr ⟨?_, rfl⟩
      rw [hq, hu]
      simpa [Phase.fetches] using fetch
    · exact .inl rfl

theorem endByReset_phase (s : State) (p q : Port) :
    ((s.endByReset p).port q).phase = if q = p then .idle else (s.port q).phase := by
  rw [endByReset_port]
  split <;> rfl

theorem fetchesSound_endByReset {s : State} (distinct : s.AddressesDistinct) (hs : s.FetchesSound) (p : Port) :
    (s.endByReset p).FetchesSound := by
  have phases := endByReset_phase s p
  unfold State.endByReset at phases ⊢
  cases hp : (s.port p).phase with
  | idle => exact hs
  | queued u =>
    simp only [hp] at phases ⊢
    exact fetchesSound_withdrawn distinct hs hp (congrArg (·.memPort.operation) (withdraw_frame s u) :) rfl phases
  | stalled u =>
    have same : FetchSame s (s.setPhase p .idle) :=
      fetchSame_of rfl (fun _ => .inl rfl) (phases_setPhase rfl (by rw [hp]; rfl) rfl)
    exact same.fetchesSound hs
  | inMemory u =>
    simp only [hp] at phases ⊢
    by_cases fetch : u.purpose = .grantFetch
    · obtain ⟨i, m, he, -⟩ := hs.2.2.1 p u hp fetch
      simp only [fetch, if_true, orphan_of_entry distinct he] at phases ⊢
      exact fetchesSound_mark hs hp he rfl (entry_setEntry_same ..) (fun j hj => entry_setEntry_other _ _ _ _ hj)
        (fun q hq => by rw [phases, if_neg hq]) (.inr ⟨by rw [phases, if_pos rfl], rfl⟩) fetch
    · simp only [fetch, if_false] at phases ⊢
      have flies := hs.1 p u hp
      have no_fetch : u.work ≠ .grantFetch := fun work => fetch (work_grantFetch.1 work)
      refine fetchesSound_endPort hs flies no_fetch (fun q b g => ?_) (fun _ => rfl) (fun q => ?_) ?_
      · show s.memPort.operation.map (Operation.giveUp p) ≠ _
        rw [flies]
        simp [Operation.giveUp, no_fetch]
      · rw [phases]
        split
        next hq => exact .inr ⟨hq, rfl, u, hq ▸ hp⟩
        · exact .inl rfl
      · rw [phases, if_pos rfl]
        nofun

theorem fetchesSound_endByFence {s : State} (distinct : s.AddressesDistinct) (hs : s.FetchesSound) (p : Port) :
    (s.endByFence p).FetchesSound := by
  unfold State.endByFence
  cases hp : (s.port p).phase with
  | idle => exact hs
  | queued u =>
    have ports : (s.withdraw u).ports = s.ports := (congrArg State.ports (withdraw_frame s u) :)
    refine fetchesSound_withdrawn distinct hs hp (congrArg (·.memPort.operation) (withdraw_frame s u) :) rfl fun q => ?_
    exact (finish_phase _ p _ q).trans (by rw [logFault_port, port_eq_of_ports ports])
  | stalled u =>
    have same : FetchSame s (s.fenceOff p u) :=
      fetchSame_of rfl (fun _ => .inl rfl)
        (phases_finish (u := s.logFault (transactionFault .fenced p u)) _ rfl (by rw [hp]; rfl))
    exact same.fetchesSound hs
  | inMemory u =>
    simp only
    split
    next fetch =>
      obtain ⟨i, m, he, mark⟩ := hs.2.2.1 p u hp fetch
      rw [orphan_of_entry distinct he]
      refine fetchesSound_mark hs hp he rfl (entry_setEntry_same ..) (fun j hj => entry_setEntry_other _ _ _ _ hj)
        (fun q _ => rfl) (.inl ⟨hp, ?_⟩) fetch
      cases m with
      | offline => exact absurd rfl mark
      | _ => nofun
    · exact hs

theorem fetchSame_setPort {s : State} {p : Port} {u : PortUnit} (h : u.phase = (s.port p).phase) :
    FetchSame s (s.setPort p u) :=
  fetchSame_of rfl (fun _ => .inl rfl) (phases_same fun q => setPort_phase h q)

theorem fetchesSound_assertReset {s : State} {p : Port} (online : (s.port p).resetAsserted = false) (h : FetchBundle s) :
    (s.assertReset p).FetchesSound := by
  obtain ⟨distinct, -, stalls, hs⟩ := h
  rw [assertReset_eq online]
  have same : FetchSame s (s.shut p) := fetchSame_setPort rfl
  have shut := same.fetchesSound hs
  have ended : (((s.shut p).endByReset p).setNotice p NoticeUnit.empty).FetchesSound :=
    fetchesSound_endByReset (s := s.shut p) distinct shut p
  refine fetchSame_loseAll ?_ ((fetchSame_removeWaiters _ p).fetchesSound ended) .offline p
  refine stallsSound_removeWaiters stalls (u := ((s.shut p).endByReset p).setNotice p NoticeUnit.empty)
    (listsSame_endByReset (s.shut p) p) (fun q hq => ?_) ?_
  · rw [setNotice_port, endByReset_port, shut_port, if_neg hq, if_neg hq]
  · rw [setNotice_port, endByReset_port, if_pos rfl]
    rfl

theorem fetchesSound_fence {s : State} (distinct : s.AddressesDistinct) (hs : s.FetchesSound) (p : Port) :
    (s.fencePort p false).FetchesSound := by
  rw [fencePort_eq]
  have same : FetchSame s (s.raiseFence p) := fetchSame_setPort rfl
  have raised := same.fetchesSound hs
  exact (fetchSame_removeWaiters _ p).fetchesSound (fetchesSound_endByFence (s := s.raiseFence p) distinct raised p)

/-! ### The write-back requester -/

/-- What the ports' operations see of the write-back requester's grants and completions. -/
theorem fetchSame_writeBack {s t : State} (before : ∀ p w a g, s.memPort.operation ≠ some (.ofPort p w a g))
    (after : ∀ p w a g, t.memPort.operation ≠ some (.ofPort p w a g))
    (entries : ∀ i, EntrySame (s.entry i) (t.entry i)) (ports : t.ports = s.ports) : FetchSame s t :=
  ⟨fun p w a g => iff_of_false (after p w a g) (before p w a g), fun i => (entries i).iff, phases_ports ports⟩

theorem fetchSame_grantWriteBack {s : State} (none_flies : s.memPort.operation = none) : FetchSame s s.grantWriteBack := by
  refine fetchSame_writeBack (by simp [none_flies]) ?_ (fun j => ?_) (grantWriteBack_ports s)
  · unfold State.grantWriteBack
    split
    · simp [none_flies]
    · dsimp only
      split
      · nofun
      · simp [none_flies]
  · unfold State.grantWriteBack
    split
    · exact .inl rfl
    · dsimp only
      split
      next he => exact entrySame_setEntry (s := s.setQueue _) he rfl rfl j
      · exact .inl rfl

theorem fetchSame_writeBackDone {s : State} {i : Slot} {a : PhysAddr} {d : Word}
    (ho : s.memPort.operation = some (.ofWriteBack i a d)) : FetchSame s ((s.setOperation none).writeBackDone i) := by
  have ports := writeBackDone_ports (s.setOperation none) i
  refine fetchSame_writeBack (by simp [ho]) ?_ (fun j => ?_) ports
  · unfold State.writeBackDone
    split
    · split
      · split <;> nofun
      · nofun
    · nofun
    · nofun
  · unfold State.writeBackDone
    split
    next he =>
      split
      · split
        · exact entrySame_setEntry (s := s) he rfl rfl j
        · exact entrySame_setEntry (s := s) he rfl rfl j
      · exact .inl rfl
    next he => exact entrySame_setEntry (s := s) he rfl rfl j
    · exact .inl rfl

theorem fetchSame_writeBackError {s : State} {i : Slot} {a b : PhysAddr} {d : Word} (k : Ticket)
    (ho : s.memPort.operation = some (.ofWriteBack i b d)) : FetchSame s ((s.setOperation none).writeBackError i a k) := by
  have ports := writeBackError_ports (s.setOperation none) i a k
  refine fetchSame_writeBack (by simp [ho]) ?_ (fun j => ?_) ports
  · simp only [State.writeBackError]
    split
    · split
      · split <;> nofun
      · nofun
    · nofun
    · nofun
  · simp only [State.writeBackError]
    split
    next he =>
      split
      · split
        · exact entrySame_setEntry (s := s) he rfl rfl j
        · exact entrySame_setEntry (s := s) he rfl rfl j
      · exact .inl rfl
    next he => exact entrySame_setEntry (s := s) he rfl rfl j
    · exact .inl rfl

/-! ### The invariant -/

theorem Change.fetchesSound {s t : State} (h : Change s t) (bundle : FetchBundle s) : t.FetchesSound := by
  obtain ⟨distinct, -, stalls, hs⟩ := id bundle
  have unseen : ∀ {u : State}, FetchSame s u → u.FetchesSound := fun same => same.fetchesSound hs
  have no_fetch : ∀ {p}, s.Open p → (s.port p).phase.fetches = false := fun opened => by rw [opened.1]; rfl
  have held : ∀ {i : Slot} {h h' : HeldEntry}, s.entry i = .held h → ∀ j, EntrySame (s.entry j) ((s.setEntry i (.held h')).entry j) :=
    fun he => entrySame_setEntry he rfl rfl
  cases h with
  | unpresent p => exact unseen (fetchSame_setPort rfl)
  | reply p => exact unseen (fetchSame_setPort rfl)
  | notify => exact unseen (fetchSame_of (by simp) (fun i => .inl (by simp)) (phases_ports (by simp)))
  | clearFence p => exact unseen (fetchSame_setPort rfl)
  | clearReset p => exact unseen (fetchSame_setPort rfl)
  | queue p t opened purpose =>
    exact unseen (fetchSame_of rfl (fun _ => .inl rfl)
      (phases_setPhase rfl (no_fetch opened) (by simpa [Phase.fetches] using purpose)))
  | allocate p r a f i opened _ lowest => exact fetchesSound_allocate hs opened.1 (lowestFree_free lowest)
  | renew i h he => exact unseen (fetchSame_of rfl (held he) (phases_ports rfl))
  | enrol i h w he => exact unseen (fetchSame_of rfl (held he) (phases_ports rfl))
  | stall p r a f i h he opened =>
    exact unseen (fetchSame_of rfl (held he) (phases_setPhase (u := s.setEntry _ _) rfl (no_fetch opened) rfl))
  | convert p r a f i h he opened =>
    exact unseen (fetchSame_of rfl (held he) (phases_setPhase (u := s.setEntry _ _) rfl (no_fetch opened) rfl))
  | revive p f i r he =>
    refine unseen (fetchSame_of ?_ (fun j => ?_) fun q => .inl ?_)
    · simp only [State.revive]
      split <;> rfl
    · rw [entry_eq_of_table (revive_table s p f i r)]
      exact entrySame_setEntry he rfl rfl j
    · rw [revive_port]
      split <;> rfl
  | lose cause i h v he => exact unseen (fetchSame_lose he stalls)
  | withdraw p i h he => exact unseen (fetchSame_of rfl (held he) (phases_ports rfl))
  | timeOut p i h r he waits =>
    obtain ⟨w, listed, rfl, waits⟩ := waits
    obtain ⟨u, stalled⟩ := stalled_of_waits stalls (i := i) (by rw [he]; exact listed) waits
    exact unseen (fetchSame_of rfl (held he) (phases_finish (u := s.setEntry _ _) _ rfl (by rw [stalled]; rfl)))
  | issue p t none_flies queued => exact fetchesSound_issue hs none_flies queued
  | refuseGrant p t r queued purpose =>
    exact unseen (fetchSame_of rfl (fun _ => .inl rfl)
      (phases_finish _ rfl (by rw [queued]; simp [Phase.fetches, purpose])))
  | grantWriteBack none_flies => exact unseen (fetchSame_grantWriteBack none_flies)
  | discard p work a g ho no_fetch out =>
    refine fetchesSound_endPort hs ho no_fetch nofun (fun _ => rfl) (fun _ => .inl rfl) fun t ht => ?_
    cases g with
    | false => exact out rfl t ht
    | true =>
      have flies := hs.1 p t ht
      rw [ho] at flies
      cases flies
  | returned p work a t r ho no_fetch memory =>
    refine fetchesSound_endPort hs ho no_fetch nofun (fun _ => rfl) (fun q => ?_) ?_
    · rw [finish_phase]
      split
      next hq => exact .inr ⟨hq, rfl, t, hq ▸ memory⟩
      · exact .inl rfl
    · rw [finish_phase, if_pos rfl]
      nofun
  | fetchData p a g w ho => exact fetchesSound_fetchData w distinct hs ho
  | fetchError p a g ho => exact fetchesSound_fetchError distinct hs ho
  | writeBackDone i a d ho => exact unseen (fetchSame_writeBackDone ho)
  | writeBackError i a d ho => exact unseen (fetchSame_writeBackError _ ho)
  | assertReset p online => exact fetchesSound_assertReset online bundle
  | fence p => exact fetchesSound_fence distinct hs p
  | _ => exact hs

theorem Change.bundle {s t : State} (h : Change s t) (hs : FetchBundle s) : FetchBundle t :=
  ⟨kept_of_each (fun _ _ c => c.addressesDistinct) h.tableChanges hs.1, h.listsSound hs.2.1, h.stallsSound hs.2.1 hs.2.2.1,
    h.fetchesSound hs⟩

theorem bundle_outer {s t : State} (h : Outer s t) (hs : FetchBundle s) : FetchBundle t := by
  obtain ⟨distinct, lists, stalls, fetches⟩ := hs
  refine ⟨h.addressesDistinct distinct, h.listsSound lists, stallsSound_outer h stalls, ?_⟩
  cases h with
  | present p r =>
    have same : FetchSame s (s.setPresented p (some r)) := fetchSame_setPort rfl
    exact same.fetchesSound fetches
  | clearSlot i a k w he =>
    have same : FetchSame s (s.freeSlot i) := fetchSame_of rfl (entrySame_setEntry he rfl rfl) (phases_ports rfl)
    exact same.fetchesSound fetches
  | _ => exact fetches

theorem fetchSame_ticked (s : State) : FetchSame s (s.forSlots State.tickAt) := by
  have memPort : (s.forSlots State.tickAt).memPort = s.memPort := by
    have frame := ticked_frame s
    generalize s.forSlots State.tickAt = t at frame ⊢
    exact (congrArg State.memPort frame :)
  refine fetchSame_of (by rw [memPort]) (fun i => ?_) (phases_ports (ticked_ports s))
  rw [ticked_entry]
  cases s.entry i with
  | held h => exact .inr ⟨rfl, rfl⟩
  | _ => exact .inl rfl

theorem bundle_partReset (s : State) : FetchBundle s.assertPartReset := by
  have free := assertPartReset_entry s
  have idle : ∀ q, (s.assertPartReset.port q).phase = .idle := fun q => by rw [assertPartReset_port]; rfl
  refine ⟨fun i j hi => ?_, fun i => by rw [free]; rfl, stallsSound_partReset s, ?_⟩
  · rw [free] at hi
    cases hi
  · refine ⟨fun p t h => ?_, fun p t h => ?_, fun p t h => ?_, nofun, fun i a p m he => ?_⟩
    · rw [idle] at h
      cases h
    · rw [idle] at h
      cases h
    · rw [idle] at h
      cases h
    · rw [free] at he
      cases he

/-- Settles O59: what each change does to fetches, their entries and the operation in flight. -/
theorem everyStepKeepsFetchesSound : Obligations.EveryStepKeepsFetchesSound :=
  keptByStep_of_changes (P := FetchBundle) (fun _ _ h => h.bundle) (fun _ _ h => bundle_outer h)
    (takeTick_kept (fun _ _ h => h.bundle) fun s hs =>
      have ⟨distinct, lists, stalls, fetches⟩ := hs
      ⟨ticked_kept (fun s i h he hs => addressesDistinct_same_word hs (by rw [he]; rfl)) s distinct, listsSound_ticked s lists,
        stallsSound_ticked stalls, (fetchSame_ticked s).fetchesSound fetches⟩)
    fun s _ => bundle_partReset s

end Sys2Proof.Machine
end

section
/-! The statements on claiming (R6, R24 to R32, R47 to R53): what a claim attempt does at a word without an entry, at a
RETIRING entry, and at an entry of another port. -/

namespace Sys2Proof.Machine

/-- A claim attempt at an accepting port is decided by the claim unit (R22, R24). -/
theorem exec_claimAttempt {s : State} {p : Port} {a : LogAddr} {be : Lanes} {x : PhysAddr} {f : ClaimFields} (ha : s.Accepts p)
    (ht : (s.map p).translate a = .memory x (.claim f)) :
    exec (.claimAttempt p a be) s = .next ((s.setPresented p none).claimRead p (readRequest a be) x f) := by
  rw [exec_access (p := p) (r := readRequest a be) rfl]
  simp only [readRequest_direction, present_claim_read ha ht]

/-! ### Words without an entry (R6, R25) -/

theorem claimRead_allocates {s : State} {p : Port} {r : Request} {x : PhysAddr} {f : ClaimFields} {i : Slot}
    (absent : s.lookup x = none) (lowest : s.lowestFree = some i) : s.claimRead p r x f = s.allocate p r x f i := by
  simp only [State.claimRead, absent, lowest]

theorem claimRead_full {s : State} {p : Port} {r : Request} {x : PhysAddr} {f : ClaimFields}
    (absent : s.lookup x = none) (full : s.lowestFree = none) :
    s.claimRead p r x f = s.reply p (.data (replyWord .full p 0 0 0)) := by
  simp only [State.claimRead, absent, full]

/-- Settles O3: the lookup finds nothing, and the lowest FREE slot, if any, is allocated. -/
theorem claimAttemptOnFreeWordAllocates : Obligations.ClaimAttemptOnFreeWordAllocates := by
  intro s p a be x f ha ht absent
  have none_there : (s.setPresented p none).lookup x = none := lookup_eq_none.2 absent
  refine ⟨fun i free lower => ?_, fun full => ?_⟩
  · have lowest : (s.setPresented p none).lowestFree = some i := lowestFree_eq free lower
    refine ⟨_, (exec_claimAttempt ha ht).trans (congrArg _ (claimRead_allocates none_there lowest)), entry_setEntry_same ..,
      fun j hj => entry_setEntry_other _ _ _ _ hj, ?_, fun q hq => ?_, rfl⟩
    · rw [State.allocate, port_setPhase_same, setEntry_port, port_setPresented_same]
      rfl
    · rw [State.allocate, port_setPhase_other _ _ _ _ hq, setEntry_port, port_setPresented_other _ _ _ _ hq]
  · have none_free : (s.setPresented p none).lowestFree = none := lowestFree_none.2 full
    exact ⟨_, (exec_claimAttempt ha ht).trans (congrArg _ (claimRead_full none_there none_free)), reply_repliedAtOnce rfl, rfl⟩

/-! ### Answers from the entry as it stands (R24, R27, R29, R32) -/

theorem claimRead_fetching {s : State} {p q : Port} {r : Request} {x : PhysAddr} {f : ClaimFields} {i : Slot} {m : OrphanMark}
    (hs : s.AddressesDistinct) (he : s.entry i = .fetching x q m) :
    s.claimRead p r x f = s.reply p (.data (replyWord .busy q 0 0 0)) := by
  have found : s.lookup x = some i := lookup_eq_some hs (by rw [he]; rfl)
  simp only [State.claimRead, found, he]

theorem claimRead_quarantined {s : State} {p : Port} {r : Request} {x : PhysAddr} {f : ClaimFields} {i : Slot} {k : Ticket}
    {w : Payload} (hs : s.AddressesDistinct) (he : s.entry i = .quarantined x k w) :
    s.claimRead p r x f = s.reply p (.data (replyWord .broken p 0 k 0)) := by
  have found : s.lookup x = some i := lookup_eq_some hs (by rw [he]; rfl)
  simp only [State.claimRead, found, he]

/-- An attempt by another port than the holder is decided by its mode and by the list. -/
theorem claimRead_held {s : State} {p : Port} {r : Request} {f : ClaimFields} {i : Slot} {h : HeldEntry}
    (hs : s.AddressesDistinct) (he : s.entry i = .held h) (hp : h.holder ≠ p) :
    s.claimRead p r h.address f = s.attemptHeld p r h.address f i h := by
  have found : s.lookup h.address = some i := lookup_eq_some hs (by rw [he]; rfl)
  simp only [State.claimRead, found, he, if_neg hp]

theorem attemptHeld_poll {s : State} {p : Port} {r : Request} {x : PhysAddr} {f : ClaimFields} {i : Slot} {h : HeldEntry}
    (mode : f.mode = .poll) (unlisted : enrolled h.waiters p = false) :
    s.attemptHeld p r x f i h = s.reply p (.data (replyWord .busy h.holder h.waiters.length h.ticket 0)) := by
  simp only [State.attemptHeld, mode, unlisted, Bool.false_eq_true, if_false]

theorem attemptHeld_listed {s : State} {p : Port} {r : Request} {x : PhysAddr} {f : ClaimFields} {i : Slot} {h : HeldEntry}
    (mode : f.mode ≠ .wait) (listed : enrolled h.waiters p = true) :
    s.attemptHeld p r x f i h = s.reply p (.data (replyWord .queued h.holder (position h.waiters p) h.ticket 0)) := by
  cases hm : f.mode with
  | wait => exact absurd hm mode
  | _ => simp only [State.attemptHeld, hm, listed, if_true]

/-- Settles O4: each form of the entry is one answer of the claim unit. -/
theorem claimAttemptAnsweredFromEntry : Obligations.ClaimAttemptAnsweredFromEntry := by
  intro s p a be x f i ha ht hs
  have run : ∀ {t}, (s.setPresented p none).claimRead p (readRequest a be) x f = t →
      exec (.claimAttempt p a be) s = .next t := fun h => (exec_claimAttempt ha ht).trans (congrArg _ h)
  refine ⟨fun q m he => ?_, fun k w he => ?_, fun h he hx hp mode unlisted => ?_,
    fun h before w behind he hx hp mode waiters hw first => ?_⟩
  · exact ⟨_, run (claimRead_fetching (s := s.setPresented p none) hs he), reply_repliedAtOnce rfl, rfl⟩
  · exact ⟨_, run (claimRead_quarantined (s := s.setPresented p none) hs he), reply_repliedAtOnce rfl, rfl⟩
  · subst hx
    exact ⟨_, run ((claimRead_held (s := s.setPresented p none) hs he hp).trans
      (attemptHeld_poll mode (enrolled_eq_false.2 unlisted))), reply_repliedAtOnce rfl, rfl⟩
  · subst hx
    have listed : enrolled h.waiters p = true := enrolled_eq_true.2 ⟨w, by simp [waiters], hw⟩
    have answered := attemptHeld_listed (s := s.setPresented p none) (r := readRequest a be) (x := h.address) (i := i) mode listed
    rw [show position h.waiters p = before.length + 1 from waiters ▸ position_eq hw first] at answered
    exact ⟨_, run ((claimRead_held (s := s.setPresented p none) hs he hp).trans answered), reply_repliedAtOnce rfl, rfl⟩

/-! ### Revival (R18, R31) -/

theorem claimRead_retiring {s : State} {p : Port} {r : Request} {f : ClaimFields} {i : Slot} {e : RetiringEntry}
    (hs : s.AddressesDistinct) (he : s.entry i = .retiring e) : s.claimRead p r e.address f = s.revive p f i e := by
  have found : s.lookup e.address = some i := lookup_eq_some hs (by rw [he]; rfl)
  simp only [State.claimRead, found, he]

theorem revive_queue (s : State) (p : Port) (f : ClaimFields) (i : Slot) (r : RetiringEntry) :
    (s.revive p f i r).writeBackQueue =
      if r.writeBack = none then s.writeBackQueue.filter (fun j => j ≠ i) else s.writeBackQueue := by
  cases hw : r.writeBack <;> simp only [State.revive, hw] <;> rfl

theorem revive_frame (s : State) (p : Port) (f : ClaimFields) (i : Slot) (r : RetiringEntry) :
    { s.revive p f i r with ports := s.ports, table := s.table, writeBackQueue := s.writeBackQueue } = s := by
  cases hw : r.writeBack <;> simp only [State.revive, hw] <;> rfl

/-- Settles O6: the attempt is a revival in every claim mode. -/
theorem retiringEntryRevived : Obligations.RetiringEntryRevived := by
  intro s p a be f i r ha ht hs he
  have run := (exec_claimAttempt (be := be) ha ht).trans
    (congrArg _ (claimRead_retiring (s := s.setPresented p none) (p := p) (r := readRequest a be) (f := f) hs he))
  have entry := entry_eq_of_table (revive_table (s.setPresented p none) p f i r)
  refine ⟨_, run, ?_, fun j hj => ?_, revive_queue .., ⟨?_, fun q hq => ?_⟩, ?_⟩
  · rw [entry, entry_setEntry_same]
    rfl
  · rw [entry, entry_setEntry_other _ _ _ _ hj, setPresented_entry]
  · rw [revive_port, if_pos rfl, port_setPresented_same]
  · rw [revive_port, if_neg hq, port_setPresented_other _ _ _ _ hq]
  · exact congrArg (fun t : State => { t with ports := s.ports }) (revive_frame (s.setPresented p none) p f i r)

/-! ### Enrolment (R47, R48, R51) -/

theorem attemptHeld_queue {s : State} {p : Port} {r : Request} {x : PhysAddr} {f : ClaimFields} {i : Slot} {h : HeldEntry}
    (mode : f.mode = .queue) (unlisted : enrolled h.waiters p = false) :
    s.attemptHeld p r x f i h =
      ((s.setEntry i (.held (h.enrol { port := p, mode := .queue, lease := f.lease }))).contend p h).reply p
        (.data (replyWord .queued h.holder (h.waiters.length + 1) h.ticket 0)) := by
  simp only [State.attemptHeld, mode, unlisted, Bool.false_eq_true, if_false]

theorem contend_frame (s : State) (p : Port) (h : HeldEntry) : { s.contend p h with notices := s.notices } = s := by
  unfold State.contend
  split
  · exact notify_frame ..
  · rfl

theorem contend_table (s : State) (p : Port) (h : HeldEntry) : (s.contend p h).table = s.table :=
  (congrArg State.table (contend_frame s p h) :)

/-- CONTENDED goes to the holder of an empty list (R48). -/
theorem contend_notified {s : State} {p : Port} {h : HeldEntry} (first : h.waiters = []) :
    Notified s (s.contend p h) h.holder
      { kind := .contended, other := p, ticketBits := h.ticket.extractLsb' 0 4, address := h.address } := by
  simp only [State.contend, first, List.isEmpty_nil, if_true]
  refine ⟨?_, fun q hq => ?_⟩
  · rw [notify_notice]
    cases (s.port h.holder).resetAsserted with
    | true => simp
    | false => simp; rfl
  · rw [notify_notice, if_neg fun both => hq both.1]

theorem contend_notices {s : State} {p : Port} {h : HeldEntry} (others : h.waiters ≠ []) :
    (s.contend p h).notices = s.notices := by
  have nonempty : h.waiters.isEmpty = false := by simpa using others
  simp only [State.contend, nonempty, Bool.false_eq_true, if_false]

/-- What CONTENDED is sent as, seen from a state whose port units differ in no reset input. -/
theorem Notified.of_same {s u t : State} {p : Port} {n : Notice} (h : Notified u t p n) (notices : u.notices = s.notices)
    (reset : (u.port p).resetAsserted = (s.port p).resetAsserted) : Notified s t p n := by
  obtain ⟨own, others⟩ := h
  refine ⟨?_, fun q hq => (others q hq).trans (notice_eq_of_notices notices q)⟩
  rw [own, reset, notice_eq_of_notices notices]

theorem setPresented_reset (s : State) (p q : Port) (r : Option Request) :
    ((s.setPresented p r).port q).resetAsserted = (s.port q).resetAsserted := by
  by_cases hq : q = p <;> simp [hq]

/-- Settles O7: the enrolment at the tail, with CONTENDED where the list was empty. -/
theorem queueAttemptEnrols : Obligations.QueueAttemptEnrols := by
  intro s p a be f i h ha ht hs he hp unlisted mode
  have run := (exec_claimAttempt (be := be) ha ht).trans (congrArg _
    ((claimRead_held (s := s.setPresented p none) (r := readRequest a be) (f := f) hs he hp).trans
      (attemptHeld_queue mode (enrolled_eq_false.2 unlisted))))
  have entry : ∀ j, (((s.setPresented p none).setEntry i (.held (h.enrol { port := p, mode := .queue, lease := f.lease }))).contend
      p h).entry j = ((s.setPresented p none).setEntry i (.held (h.enrol { port := p, mode := .queue, lease := f.lease }))).entry j :=
    entry_eq_of_table (contend_table ..)
  refine ⟨_, run, ?_, fun j hj => ?_, reply_repliedAtOnce (contend_ports ..), fun first => ?_, contend_notices, ?_⟩
  · rw [reply_entry, entry, entry_setEntry_same]
    rfl
  · rw [reply_entry, entry, entry_setEntry_other _ _ _ _ hj, setPresented_entry]
  · exact (contend_notified first).of_same rfl (setPresented_reset s p h.holder none)
  · exact congrArg (fun t : State => { t with ports := s.ports, table := s.table })
      (contend_frame ((s.setPresented p none).setEntry i (.held (h.enrol { port := p, mode := .queue, lease := f.lease }))) p h)

end Sys2Proof.Machine
end

section
/-! The statements on WAIT attempts (R49 to R53), on releases (R37, R38, R55, R56) and on writes refused DENIED (R36, R97). -/

namespace Sys2Proof.Machine

/-! ### WAIT attempts -/

theorem attemptHeld_deadlock {s : State} {p : Port} {r : Request} {x : PhysAddr} {f : ClaimFields} {i : Slot} {h : HeldEntry}
    (mode : f.mode = .wait) (cycle : s.deadlock p h.holder = true) :
    s.attemptHeld p r x f i h = s.reply p (.data (replyWord .deadlock h.holder h.waiters.length h.ticket 0)) := by
  simp only [State.attemptHeld, mode, cycle, if_true]

theorem attemptHeld_wait {s : State} {p : Port} {r : Request} {x : PhysAddr} {f : ClaimFields} {i : Slot} {h : HeldEntry}
    (mode : f.mode = .wait) (no_cycle : s.deadlock p h.holder = false) (unlisted : enrolled h.waiters p = false) :
    s.attemptHeld p r x f i h =
      ((s.setEntry i (.held (h.enrol { port := p, mode := waitMode f.limit, lease := f.lease }))).contend p h).stall p r x f := by
  simp only [State.attemptHeld, mode, no_cycle, unlisted, Bool.false_eq_true, if_false]

theorem attemptHeld_convert {s : State} {p : Port} {r : Request} {x : PhysAddr} {f : ClaimFields} {i : Slot} {h : HeldEntry}
    (mode : f.mode = .wait) (no_cycle : s.deadlock p h.holder = false) (listed : enrolled h.waiters p = true) :
    s.attemptHeld p r x f i h = (s.setEntry i (.held { h with waiters := convert h.waiters p f })).stall p r x f := by
  simp only [State.attemptHeld, mode, no_cycle, listed, Bool.false_eq_true, if_false, if_true]

/-- Only the record of its port is converted. -/
theorem convert_of_not_listed {l : List Waiter} {p : Port} (h : ∀ v ∈ l, v.port ≠ p) (f : ClaimFields) : convert l p f = l :=
  (List.map_congr_left fun v hv => if_neg (h v hv)).trans (List.map_id l)

/-- In a list with one record a port, the port's record is converted in its place (R52). -/
theorem convert_append {before behind : List Waiter} {w : Waiter} {p : Port} {f : ClaimFields} (hw : w.port = p)
    (nodup : ((before ++ w :: behind).map Waiter.port).Nodup) :
    convert (before ++ w :: behind) p f = before ++ { w with mode := waitMode f.limit, lease := f.lease } :: behind := by
  rw [List.map_append, List.map_cons, List.nodup_append] at nodup
  obtain ⟨-, nodup_behind, apart⟩ := nodup
  have ahead : convert before p f = before := convert_of_not_listed (fun v hv hp =>
    apart v.port (List.mem_map_of_mem hv) w.port List.mem_cons_self (hp.trans hw.symm)) f
  have after : convert behind p f = behind := convert_of_not_listed (fun v hv hp =>
    (List.nodup_cons.1 nodup_behind).1 (List.mem_map.2 ⟨v, hv, hp.trans hw.symm⟩)) f
  have own : convert (w :: behind) p f = { w with mode := waitMode f.limit, lease := f.lease } :: convert behind p f := by
    rw [convert, List.map_cons, if_pos hw]
    rfl
  rw [show convert (before ++ w :: behind) p f = convert before p f ++ convert (w :: behind) p f from List.map_append, own,
    ahead, after]

theorem stall_port (s : State) (p : Port) (r : Request) (x : PhysAddr) (f : ClaimFields) :
    (s.stall p r x f).port p =
      { s.port p with phase := .stalled { request := r, physical := x, target := .claim f, purpose := .waitRead } } :=
  port_setPhase_same ..

theorem stall_port_other (s : State) {p q : Port} (hq : q ≠ p) (r : Request) (x : PhysAddr) (f : ClaimFields) :
    (s.stall p r x f).port q = s.port q := port_setPhase_other _ _ _ _ hq

theorem setPresented_port_other {s : State} {p q : Port} (hq : q ≠ p) (r : Option Request) :
    (s.setPresented p r).port q = s.port q := port_setPresented_other _ _ _ _ hq

/-- Settles O8: the deadlock check, then the list, decide between the answer, the enrolment and the conversion. -/
theorem waitAttemptStallsOrDeadlocks : Obligations.WaitAttemptStallsOrDeadlocks := by
  intro s p a be f i h ha ht hs lists he hp mode
  have run : ∀ {t}, (s.setPresented p none).attemptHeld p (readRequest a be) h.address f i h = t →
      exec (.claimAttempt p a be) s = .next t := fun ran =>
    (exec_claimAttempt ha ht).trans (congrArg _ ((claimRead_held (s := s.setPresented p none) hs he hp).trans ran))
  have deadlock : (s.setPresented p none).deadlock p h.holder = s.deadlock p h.holder := setPresented_deadlock ..
  have taken : (s.setPresented p none).port p = { s.port p with presented := none } := port_setPresented_same ..
  refine ⟨fun cycle => ?_, fun no_cycle unlisted => ?_, fun before w behind no_cycle waiters hw => ?_⟩
  · exact ⟨_, run (attemptHeld_deadlock mode (deadlock.trans cycle)), reply_repliedAtOnce rfl, rfl⟩
  · have frame := contend_frame
      ((s.setPresented p none).setEntry i (.held (h.enrol { port := p, mode := waitMode f.limit, lease := f.lease }))) p h
    have entry := entry_eq_of_table (contend_table
      ((s.setPresented p none).setEntry i (.held (h.enrol { port := p, mode := waitMode f.limit, lease := f.lease }))) p h)
    have port := port_eq_of_ports (contend_ports
      ((s.setPresented p none).setEntry i (.held (h.enrol { port := p, mode := waitMode f.limit, lease := f.lease }))) p h)
    refine ⟨_, run (attemptHeld_wait mode (deadlock.trans no_cycle) (enrolled_eq_false.2 unlisted)), ?_, fun j hj => ?_, ?_,
      fun q hq => ?_, fun first => ?_, contend_notices, ?_⟩
    · exact (entry i).trans (entry_setEntry_same ..)
    · exact (entry j).trans (entry_setEntry_other _ _ _ _ hj)
    · rw [stall_port, port, setEntry_port, taken]
      rfl
    · rw [stall_port_other _ hq, port, setEntry_port, setPresented_port_other hq]
    · exact (contend_notified (s := (s.setPresented p none).setEntry i _) first).of_same rfl
        (setPresented_reset s p h.holder none)
    · exact congrArg (fun t : State => { t with ports := s.ports, table := s.table }) frame
  · have listed : enrolled h.waiters p = true := enrolled_eq_true.2 ⟨w, by simp [waiters], hw⟩
    have nodup := (listSound_held.1 (he ▸ lists i)).2
    rw [waiters] at nodup
    refine ⟨_, run (attemptHeld_convert mode (deadlock.trans no_cycle) listed), ?_, fun j hj => ?_, ?_, fun q hq => ?_, rfl⟩
    · refine (entry_setEntry_same ..).trans ?_
      rw [waiters, convert_append hw nodup]
      rfl
    · exact entry_setEntry_other _ _ _ _ hj
    · rw [stall_port, setEntry_port, taken]
      rfl
    · rw [stall_port_other _ hq, setEntry_port, setPresented_port_other hq]

/-! ### Releases (R38, R55, R56, R13) -/

theorem claimWrite_release {s : State} {p : Port} {r : Request} {d : Word} {i : Slot} {h : HeldEntry} (hs : s.AddressesDistinct)
    (he : s.entry i = .held h) (hp : h.holder = p) (ticket : ticketOf d = h.ticket) :
    s.claimWrite p r h.address d = (s.lose .release i { h with payload := payloadOf d }).reply p .written := by
  have found : s.lookup h.address = some i := lookup_eq_some hs (by rw [he]; rfl)
  simp [State.claimWrite, found, he, hp, ticket]

/-- A release tells nobody but the head waiter. -/
theorem lose_release_notice (s : State) (i : Slot) {h : HeldEntry} {w : Waiter} {rest : List Waiter} (hw : h.waiters = w :: rest)
    (q : Port) :
    (s.lose .release i h).notice q =
      if q = w.port ∧ w.waits = false ∧ (s.port q).resetAsserted = false then
        (s.notice q).arrive { kind := .handoff, other := h.holder, ticketBits := ticketBits (h.ticket + 1)
                              address := h.address }
      else s.notice q := by
  rw [lose_notice, hw]
  exact ite_self _

theorem lose_port_cons (s : State) (cause : LossCause) (i : Slot) {h : HeldEntry} {w : Waiter} {rest : List Waiter}
    (hw : h.waiters = w :: rest) (q : Port) :
    (s.lose cause i h).port q =
      if q = w.port ∧ w.waits = true then
        { s.port q with
          phase := .idle
          replies := (s.port q).replies ++ [.data (replyWord .granted w.port rest.length (h.ticket + 1) h.payload)] }
      else s.port q := by
  rw [lose_port, hw]

/-- The head of the list is told that it holds the claim (R56). -/
theorem lose_release_told {s : State} {i : Slot} {h : HeldEntry} {w : Waiter} {rest : List Waiter} (hw : h.waiters = w :: rest) :
    NewHolderTold s (s.lose .release i h) h w rest := by
  rw [NewHolderTold, lose_port_cons s _ i hw, lose_release_notice s i hw]
  cases waits : w.waits with
  | true => simp
  | false =>
    cases reset : (s.port w.port).resetAsserted with
    | true => simp
    | false => simp; rfl

theorem lose_release_nil {s : State} {i : Slot} {h : HeldEntry} (hw : h.waiters = []) : s.lose .release i h = s.retire i h := by
  rw [lose_nil _ _ _ _ hw]
  rfl

theorem retire_frame (s : State) (i : Slot) (h : HeldEntry) :
    { s.retire i h with table := s.table, writeBackQueue := s.writeBackQueue } = s := by
  unfold State.retire
  split <;> rfl

/-- A release that passes the claim to a waiter changes the ports, the table and the notices alone. -/
theorem lose_release_frame {s : State} {i : Slot} {h : HeldEntry} {w : Waiter} {rest : List Waiter} (hw : h.waiters = w :: rest) :
    { s.lose .release i h with ports := s.ports, table := s.table, notices := s.notices } = s := by
  have queue : (s.lose .release i h).writeBackQueue = s.writeBackQueue := by
    rw [lose_queue, HeldEntry.queuesAtLoss, hw]
    rfl
  have log : (s.lose .release i h).log = s.log := by rw [lose_log, if_neg nofun]
  have frame := lose_frame s .release i h
  refine Eq.trans ?_ frame
  rw [← queue, ← log]

/-- Settles O10: the write is the loss of the claim by RELEASE, with the payload written. -/
theorem releasePassesClaimOn : Obligations.ReleasePassesClaimOn := by
  intro s p a d f i h ha ht hs lists he hp ticket
  have released : (s.setPresented p none).claimWrite p (writeRequest a 0xF d) h.address d =
      ((s.setPresented p none).lose .release i { h with payload := payloadOf d }).reply p .written :=
    claimWrite_release hs he hp ticket
  have run : exec (.claimWordWrite p a 0xF d) s =
      .next ((((s.setPresented p none).lose .release i { h with payload := payloadOf d }).reply p .written).endEvent s) := by
    rw [exec_claimWordWrite_full ha ht, released]
  refine ⟨fun nobody => ?_, fun w rest hw => ?_⟩
  · have retired : (s.setPresented p none).lose .release i { h with payload := payloadOf d } =
        (s.setPresented p none).retire i { h with payload := payloadOf d } := lose_release_nil nobody
    have frame := retire_frame (s.setPresented p none) i { h with payload := payloadOf d }
    have replied : RepliedAtOnce s (((s.setPresented p none).retire i { h with payload := payloadOf d }).reply p .written) p
        .written := reply_repliedAtOnce (congrArg State.ports frame :)
    have entry := lose_entry_other (s.setPresented p none) .release i { h with payload := payloadOf d }
    have queue := lose_queue (s.setPresented p none) .release i { h with payload := payloadOf d }
    have own := lose_entry (s.setPresented p none) .release i { h with payload := payloadOf d }
    rw [retired] at run entry queue own
    rw [replied.endEvent_eq_self ha (congrArg State.quiesce frame :) (congrArg State.partReset frame :)] at run
    refine ⟨_, run, own.trans ?_, entry, queue.trans ?_, replied.1, replied.2, ?_⟩
    · simp only [HeldEntry.afterLoss, nobody]
      rfl
    · cases h.writeBack <;> simp [HeldEntry.queuesAtLoss, nobody]
    · exact congrArg (fun t : State => { t with ports := s.ports }) frame
  · have told := lose_release_told (s := s.setPresented p none) (i := i) (h := { h with payload := payloadOf d }) hw
    have frame := lose_release_frame (s := s.setPresented p none) (i := i) (h := { h with payload := payloadOf d }) hw
    have port := lose_port_cons (s.setPresented p none) .release i (h := { h with payload := payloadOf d }) hw
    have notice := lose_release_notice (s.setPresented p none) i (h := { h with payload := payloadOf d }) hw
    have head : w.port ≠ p := fun hwp => by
      have own := (listSound_held.1 (he ▸ lists i)).1
      rw [enrolled_eq_false] at own
      exact own w (by simp [hw]) (hwp.trans hp.symm)
    refine ⟨_, run, lose_entry .., lose_entry_other _ _ _ _, ?_, ?_, fun q hq hqw => ?_, fun q hqw => ?_, ?_⟩
    · rw [NewHolderTold] at told ⊢
      rw [port_reply_other _ _ _ _ head, reply_notice]
      rw [setPresented_port_other head] at told
      exact told
    · rw [port_reply_same, port, if_neg fun both => head both.1.symm, port_setPresented_same]
    · rw [port_reply_other _ _ _ _ hq, port, if_neg fun both => hqw both.1, setPresented_port_other hq]
    · rw [reply_notice, notice, if_neg fun both => hqw both.1]
      rfl
    · exact congrArg (fun t : State => { t with ports := s.ports }) frame

/-! ### Writes refused DENIED (R33, R36, R97) -/

/-- Settles O13: in each of the three cases acceptance is the refusal. -/
theorem deniedWriteRefused : Obligations.DeniedWriteRefused := by
  intro s c p a be d x ha cases_
  have refused : Instr.access c = some (p, writeRequest a be d) ∧ s.present p (writeRequest a be d) =
      (s.setPresented p none).refuse .denied p (writeRequest a be d) (some x) none := by
    rcases cases_ with ⟨rfl, lanes, f, ht⟩ | ⟨rfl, ht⟩ | ⟨rfl, g, ht⟩
    · refine ⟨rfl, ?_⟩
      rw [present_claim_write ha ht]
      exact if_neg lanes
    · exact ⟨rfl, present_view_write ha ht⟩
    · refine ⟨rfl, ?_⟩
      rw [present_plain ha ht]
      exact if_pos rfl
  obtain ⟨-, -, -, running, -⟩ := id ha
  exact ⟨_, exec_access_refused refused.1 running refused.2, reply_repliedAtOnce rfl, rfl, rfl⟩

end Sys2Proof.Machine
end

section
/-! The statements on views (R33, R34), on plain accesses and their guards (R96, R99, R101) and on accesses through the NOTICE
segment (R114, R116). -/

namespace Sys2Proof.Machine

/-! ### Views -/

theorem view_answered {s : State} {p : Port} {r : Request} {x : PhysAddr} {i : Slot} {w : Word} (hs : s.AddressesDistinct)
    (address : (s.entry i).address = some x) (reply : (s.entry i).viewReply p = some w) :
    s.view p r x = s.reply p (.data w) := by
  simp only [State.view, lookup_eq_some hs address, Option.bind_some, reply]

theorem view_from_memory {s : State} {p : Port} {r : Request} {x : PhysAddr} (absent : s.lookup x = none) :
    s.view p r x = s.setPhase p (.queued { request := r, physical := x, target := .view, purpose := .viewRead }) := by
  simp only [State.view, absent, Option.bind_none]

/-- A taken request that becomes a transaction leaves the port's unit with that phase and no request presented. -/
theorem queued_port (s : State) (p : Port) (ph : Phase) :
    ((s.setPresented p none).setPhase p ph).port p = { s.port p with presented := none, phase := ph } := by
  rw [port_setPhase_same, port_setPresented_same]

theorem queued_portsSameBut (s : State) (p : Port) (ph : Phase) : PortsSameBut s ((s.setPresented p none).setPhase p ph) p :=
  fun q hq => by rw [port_setPhase_other _ _ _ _ hq, setPresented_port_other hq]

/-- Settles O14: the entry's reply word, or a queued view where the lookup finds none. -/
theorem viewAnsweredFromEntry : Obligations.ViewAnsweredFromEntry := by
  intro s p a be x i ha ht hs
  have run : ∀ {t}, (s.setPresented p none).view p (readRequest a be) x = t → exec (.viewRead p a be) s = .next t :=
    fun ran => by
      rw [exec_access (p := p) (r := readRequest a be) rfl, ← ran]
      simp only [readRequest_direction, present_view_read ha ht]
  refine ⟨fun w forms => ?_, fun absent => ?_⟩
  · have answer : (s.entry i).address = some x ∧ (s.entry i).viewReply p = some w := by
      rcases forms with ⟨q, m, he, rfl⟩ | ⟨h, he, rfl, rfl⟩ | ⟨r, he, rfl, rfl⟩ | ⟨k, l, he, rfl⟩ <;> rw [he] <;> exact ⟨rfl, rfl⟩
    exact ⟨_, run (view_answered (s := s.setPresented p none) hs answer.1 answer.2), reply_repliedAtOnce rfl, rfl⟩
  · have none_there : (s.setPresented p none).lookup x = none := lookup_eq_none.2 absent
    exact ⟨_, run (view_from_memory none_there), queued_port .., queued_portsSameBut _ _ _, rfl⟩

/-! ### Plain accesses -/

/-- A guard query of the holder refuses an access exactly where it applies and the guard word is not HELD by the port (R99). -/
theorem guardRefused_iff {s : State} {p : Port} {dir : Direction} {g : Option Guard} (hs : s.AddressesDistinct) :
    s.guardRefused p dir g = true ↔ ∃ u, g = some u ∧ (dir.field = .write ∨ u.readsToo = true) ∧
      ¬ ∃ i h, s.entry i = .held h ∧ h.address = u.address ∧ h.holder = p := by
  cases g with
  | none => simp [State.guardRefused]
  | some u =>
    simp only [State.guardRefused, Option.some.injEq, exists_eq_left', ← guardQuery_iff hs]
    cases dir <;> simp [Direction.field, guardApplies]

theorem plain_refused {s : State} {p : Port} {r : Request} {x : PhysAddr} {acc : PlainAccess} {g : Option Guard}
    (allowed : accessRefused r.direction acc = false) (guarded : s.guardRefused p r.direction g = true) :
    s.plain p r x acc g = s.refuse .guard p r (some x) none := by
  simp only [State.plain, allowed, guarded, Bool.false_eq_true, if_false, if_true]

theorem plain_queued {s : State} {p : Port} {r : Request} {x : PhysAddr} {acc : PlainAccess} {g : Option Guard}
    (allowed : accessRefused r.direction acc = false) (free : s.guardRefused p r.direction g = false) :
    s.plain p r x acc g = s.setPhase p (.queued { request := r, physical := x, target := .plain acc g
                                                  purpose := plainPurpose r.direction }) := by
  simp only [State.plain, allowed, free, Bool.false_eq_true, if_false]

/-- The transaction of a plain access that its checks let pass ends no event: the port is QUEUED, the part RUNNING. -/
theorem exec_access_queued {c : Instr} {s : State} {p : Port} {r : Request} {t : Transaction} (hc : Instr.access c = some (p, r))
    (running : s.quiesce = .running) (queued : s.present p r = (s.setPresented p none).setPhase p (.queued t)) :
    exec c s = .next ((s.setPresented p none).setPhase p (.queued t)) := by
  have none_ready : ((s.setPresented p none).setPhase p (.queued t)).ready s = [] := ready_eq_nil.2 fun q taken => .inl (by
    by_cases hq : q = p
    · have idle := (takes_iff.1 taken).2.2.2
      rw [hq, port_setPhase_same] at idle
      cases idle
    · have same := queued_portsSameBut s p (.queued t) q hq
      exact (takes_congr (s := s) (t := (s.setPresented p none).setPhase p (.queued t)) (by rw [same]) (by rw [same])
        ⟨rfl, rfl, rfl, rfl, rfl, rfl, rfl⟩).symm.trans taken)
  have no_drain : ((s.setPresented p none).setPhase p (.queued t)).quiesce ≠ .draining := fun draining => by
    rw [setPhase_quiesce, setPresented_quiesce, running] at draining
    cases draining
  rw [exec_access hc]
  cases r.direction with
  | read => rw [← queued]
  | write d => rw [State.presentWrite, queued, endEvent_eq (.inr (.inr (.inl no_drain))), takeReady_nil none_ready]

/-- Settles O15: the access check lets the access pass, and the guard query decides. -/
theorem plainAccessCheckedAndQueued : Obligations.PlainAccessCheckedAndQueued := by
  intro s p a be d x acc g c dir purpose field ha ht hs forms
  obtain ⟨access, allowed, hpurpose, hfield⟩ : Instr.access c = some (p, { direction := dir, logical := a, enables := be }) ∧
      accessRefused dir acc = false ∧ purpose = plainPurpose dir ∧ field = dir.field := by
    rcases forms with ⟨rfl, rfl, rfl, rfl⟩ | ⟨rfl, rfl, rfl, rfl, rfl⟩ <;> exact ⟨rfl, rfl, rfl, rfl⟩
  subst hpurpose hfield
  obtain ⟨-, -, -, running, -⟩ := id ha
  have presented := present_plain (r := { direction := dir, logical := a, enables := be }) ha ht
  have guard := guardRefused_iff (s := s.setPresented p none) (p := p) (dir := dir) (g := g) hs
  refine ⟨fun held => ?_, fun u hg applies unheld => ?_⟩
  · have free : (s.setPresented p none).guardRefused p dir g = false := by
      rw [Bool.eq_false_iff, Ne, guard]
      rintro ⟨u, hu, applies, unheld⟩
      exact unheld (held u hu applies)
    exact ⟨_, exec_access_queued access running (presented.trans (plain_queued allowed free)), queued_port ..,
      queued_portsSameBut _ _ _, rfl⟩
  · have refused := guard.2 ⟨u, hg, applies, unheld⟩
    exact ⟨_, exec_access_refused access running (presented.trans (plain_refused allowed refused)), reply_repliedAtOnce rfl, rfl,
      rfl⟩

/-! ### Notice accesses -/

theorem noticePop_notice {s : State} {p : Port} {n : Notice} {rest : List Notice} (hq : (s.notice p).queue = n :: rest) :
    s.noticePop p = (s.setNotice p { s.notice p with queue := rest }).reply p (.data n.word) := by
  simp only [State.noticePop, hq]

theorem noticePop_overflow {s : State} {p : Port} (hq : (s.notice p).queue = []) (marked : (s.notice p).overflow = true) :
    s.noticePop p =
      (s.setNotice p { s.notice p with overflow := false }).reply p (.data (noticeWord overflowCode p 0 0)) := by
  simp only [State.noticePop, hq, marked, if_true]

theorem noticePop_empty {s : State} {p : Port} (hq : (s.notice p).queue = []) (unmarked : (s.notice p).overflow = false) :
    s.noticePop p = s.reply p (.data (noticeWord emptyCode p 0 0)) := by
  simp only [State.noticePop, hq, unmarked, Bool.false_eq_true, if_false]

/-- A notice word without a notice has zeros below the port. -/
theorem noticeWord_zero (k : BitVec 4) (p : Port) : noticeWord k p 0 0 = k ++ portBits p ++ (0 : BitVec 26) := by
  rw [noticeWord, BitVec.append_assoc]
  rfl

/-- Settles O17: the pop's three cases, and the control word by lane 0. -/
theorem noticeAccessesReadAndControl : Obligations.NoticeAccessesReadAndControl := by
  refine ⟨fun s p a be ha ht => ?_, fun s p a be d ha ht => ?_⟩
  · have run : ∀ {t}, (s.setPresented p none).noticePop p = t → exec (.noticeRead p a be) s = .next t := fun ran => by
      rw [exec_access (p := p) (r := readRequest a be) rfl, ← ran]
      simp only [readRequest_direction, present_notice_read ha ht]
    refine ⟨fun n rest hq => ?_, fun hq marked => ?_, fun hq unmarked => ?_⟩
    · exact ⟨_, run (noticePop_notice (s := s.setPresented p none) hq), notice_setNotice_same .., reply_repliedAtOnce rfl,
        fun q hq => notice_setNotice_other _ _ _ _ hq, rfl⟩
    · rw [← noticeWord_zero]
      exact ⟨_, run (noticePop_overflow (s := s.setPresented p none) hq marked), notice_setNotice_same ..,
        reply_repliedAtOnce rfl, fun q hq => notice_setNotice_other _ _ _ _ hq, rfl⟩
    · rw [← noticeWord_zero]
      exact ⟨_, run (noticePop_empty (s := s.setPresented p none) hq unmarked), reply_repliedAtOnce rfl, rfl⟩
  · have replied : RepliedAtOnce s ((s.setPresented p none).noticeControl p be d) p .written := reply_repliedAtOnce rfl
    have run : exec (.noticeControlWrite p a be d) s = .next ((s.setPresented p none).noticeControl p be d) := by
      rw [exec_access (p := p) (r := writeRequest a be d) rfl]
      simp only [writeRequest_direction, State.presentWrite, present_notice_write ha ht]
      rw [replied.endEvent_eq_self ha rfl rfl]
    have unit : ((s.setPresented p none).noticeControl p be d).notice p = (s.notice p).control be d :=
      notice_setNotice_same ..
    refine ⟨_, run, fun unlaned => ?_, fun lane keep => ?_, fun lane flush => ?_, replied,
      fun q hq => notice_setNotice_other _ _ _ _ hq, rfl⟩
    · rw [unit, NoticeUnit.control, unlaned]
      rfl
    · rw [unit, NoticeUnit.control, lane, keep]
      simp
    · rw [unit, NoticeUnit.control, lane, flush]
      simp

end Sys2Proof.Machine
end

section
/-! The statement on the checks of a replacement list (R87 to R90, R172), and the one on translation through a sound list (R79,
R82, R83). -/

namespace Sys2Proof.Machine

/-! ### What a search from a number on finds -/

/-- The outcome of a search for the first number with a property, the numbers counted from `m` on. -/
def Finds (P : Nat → Prop) (m : Nat) : Option Nat → Prop
  | none => ∀ n, ¬ P n
  | some k => ∃ n, k = m + n ∧ FirstAt P n

theorem finds_here {P : Nat → Prop} {m : Nat} (h : P 0) : Finds P m (some m) :=
  ⟨0, rfl, h, fun k hk => absurd hk k.not_lt_zero⟩

theorem finds_later {P : Nat → Prop} {m : Nat} {o : Option Nat} (not_here : ¬ P 0) (h : Finds (fun n => P (n + 1)) (m + 1) o) :
    Finds P m o := by
  cases o with
  | none =>
    rintro (_ | n)
    · exact not_here
    · exact h n
  | some k =>
    obtain ⟨n, rfl, first, before⟩ := h
    refine ⟨n + 1, by omega, first, ?_⟩
    rintro (_ | j) hj
    · exact not_here
    · exact before j (Nat.lt_of_succ_lt_succ hj)

theorem Finds.congr {P Q : Nat → Prop} {m : Nat} {o : Option Nat} (h : Finds P m o) (same : ∀ n, P n ↔ Q n) : Finds Q m o := by
  obtain rfl : P = Q := funext fun n => propext (same n)
  exact h

/-- A search of the records one by one for a property of each. -/
theorem finds_findIdx? {α : Type} (p : α → Bool) (l : List α) :
    Finds (fun n => ∃ g, l[n]? = some g ∧ p g = true) 0 (l.findIdx? p) := by
  cases found : l.findIdx? p with
  | none =>
    rintro n ⟨g, hg, hp⟩
    rw [List.findIdx?_eq_none_iff.1 found g (List.mem_of_getElem? hg)] at hp
    cases hp
  | some k =>
    obtain ⟨hk, hp, before⟩ := List.findIdx?_eq_some_iff_getElem.1 found
    refine ⟨k, (Nat.zero_add k).symm, ⟨l[k], List.getElem?_eq_getElem hk, hp⟩, ?_⟩
    rintro j hj ⟨g, hg, hpg⟩
    rw [List.getElem?_eq_getElem (hj.trans hk)] at hg
    exact before j hj (Option.some.inj hg ▸ hpg)

/-! ### Records by their codes (R172) -/

theorem kind_plain {g : Segment} : g.kind = some .plain ↔ g.kindCode = 1 := by
  unfold Segment.kind Segment.kindCode
  split <;> simp_all

theorem kind_claim {g : Segment} : g.kind = some .claim ↔ g.kindCode = 2 := by
  unfold Segment.kind Segment.kindCode
  split <;> simp_all

theorem kind_view {g : Segment} : g.kind = some .view ↔ g.kindCode = 3 := by
  unfold Segment.kind Segment.kindCode
  split <;> simp_all

theorem kind_notice {g : Segment} : g.kind = some .notice ↔ g.kindCode = 4 := by
  unfold Segment.kind Segment.kindCode
  split <;> simp_all

/-- What the code of descriptor bits 28 to 26 stands for (R172). -/
def attributeOf : Nat → Attribute
  | 0 => .absent
  | 1 => .access .readOnly
  | 2 => .access .readWrite
  | 3 => .mode .poll
  | 4 => .mode .queue
  | 5 => .mode .wait
  | _ => .undefined

theorem attributeOf_absent {n : Nat} : attributeOf n = .absent ↔ n = 0 := by
  unfold attributeOf
  split <;> simp_all

theorem attributeOf_access {n : Nat} : (∃ a, attributeOf n = .access a) ↔ n = 1 ∨ n = 2 := by
  unfold attributeOf
  split <;> simp_all

theorem attributeOf_mode {n : Nat} : (∃ m, attributeOf n = .mode m) ↔ n = 3 ∨ n = 4 ∨ n = 5 := by
  unfold attributeOf
  split <;> simp_all

/-- The FIELD check by the codes of a record. -/
theorem fieldOk_iff (g : Segment) : g.fieldOk = true ↔ g.FieldSound := by
  have access := attributeOf_access (n := g.attributeCode)
  have mode := attributeOf_mode (n := g.attributeCode)
  have none_given := attributeOf_absent (n := g.attributeCode)
  unfold Segment.fieldOk
  split
  next a hk ha =>
    have code := access.1 ⟨a, ha⟩
    have kind := kind_plain.1 hk
    simp only [Segment.FieldSound, Segment.readsToo, Segment.guardPresent, kind, code]
    cases g.descriptor.getLsbD 25 <;> simp [and_assoc]
  next m hk ha =>
    have code := mode.1 ⟨m, ha⟩
    have kind := kind_claim.1 hk
    simp [Segment.FieldSound, Segment.readsToo, Segment.guardPresent, kind, code]
  next hk ha =>
    have code := none_given.1 ha
    have kind := kind_view.1 hk
    simp [Segment.FieldSound, Segment.readsToo, Segment.guardPresent, kind, code, and_assoc]
  next hk ha =>
    have code := none_given.1 ha
    have kind := kind_notice.1 hk
    simp [Segment.FieldSound, Segment.readsToo, Segment.guardPresent, kind, code, and_assoc]
  next not_plain not_claim not_view not_notice =>
    refine iff_of_false Bool.false_ne_true ?_
    rintro (⟨kind, code, -⟩ | ⟨kind, code, -⟩ | ⟨kind | kind, code, -⟩)
    · obtain ⟨a, ha⟩ := access.2 code
      exact not_plain a (kind_plain.2 kind) ha
    · obtain ⟨m, hm⟩ := mode.2 code
      exact not_claim m (kind_claim.2 kind) hm
    · exact not_view (kind_view.2 kind) (none_given.2 code)
    · exact not_notice (kind_notice.2 kind) (none_given.2 code)

theorem rangeOk_iff (g : Segment) : g.rangeOk = true ↔ g.RangeSound := by
  have field : (g.descriptor.extractLsb' 0 24).toNat = g.guardField.toNat := rfl
  simp only [Segment.rangeOk, Segment.RangeSound, Segment.guardPresent, field, Bool.and_eq_true, Bool.or_eq_true,
    decide_eq_true_eq, Bool.not_eq_true', kind_notice]
  generalize g.descriptor.getLsbD 24 = present
  cases present
  · simp only [true_or, and_true, Bool.false_eq_true, false_imp_iff]
    omega
  · simp only [Bool.true_eq_false, false_or, true_imp_iff]
    omega

/-! ### The searches of the list -/

/-- FIELD and RANGE are looked for record by record (R87). -/
theorem recordFault_finds (l : List Segment) (m : Nat) :
    match recordFault m l with
    | none => ∀ n, ¬ (FieldFaultAt l n ∨ RangeFaultAt l n)
    | some (r, k) => ∃ n, k = m + n ∧ FirstAt (fun n => FieldFaultAt l n ∨ RangeFaultAt l n) n ∧
        (r = .field ∧ FieldFaultAt l n ∨ r = .range ∧ ¬ FieldFaultAt l n) := by
  induction l generalizing m with
  | nil => rintro n (⟨g, hg, -⟩ | ⟨g, hg, -⟩) <;> cases hg
  | cons g rest ih =>
    have head_field : FieldFaultAt (g :: rest) 0 ↔ ¬ g.FieldSound := by simp [FieldFaultAt]
    have head_range : RangeFaultAt (g :: rest) 0 ↔ ¬ g.RangeSound := by simp [RangeFaultAt]
    have none_before : ∀ {P : Nat → Prop} k, k < 0 → ¬ P k := fun k hk => absurd hk k.not_lt_zero
    rw [recordFault]
    by_cases field : g.FieldSound
    · rw [fieldOk_iff g |>.2 field]
      by_cases range : g.RangeSound
      · rw [rangeOk_iff g |>.2 range]
        have later := ih (m + 1)
        simp only [Bool.not_true, Bool.false_eq_true, if_false]
        have not_head : ¬ (FieldFaultAt (g :: rest) 0 ∨ RangeFaultAt (g :: rest) 0) := by
          rw [head_field, head_range]
          tauto
        cases found : recordFault (m + 1) rest with
        | none =>
          rw [found] at later
          rintro (_ | n)
          · exact not_head
          · exact later n
        | some f =>
          rw [found] at later
          obtain ⟨n, hk, ⟨first, before⟩, reason⟩ := later
          refine ⟨n + 1, by omega, ⟨first, ?_⟩, reason⟩
          rintro (_ | j) hj
          · exact not_head
          · exact before j (Nat.lt_of_succ_lt_succ hj)
      · rw [Bool.eq_false_iff.2 fun ok => range ((rangeOk_iff g).1 ok)]
        exact ⟨0, rfl, ⟨.inr (head_range.2 range), none_before⟩, .inr ⟨rfl, fun fault => head_field.1 fault field⟩⟩
    · rw [Bool.eq_false_iff.2 fun ok => field ((fieldOk_iff g).1 ok)]
      exact ⟨0, rfl, ⟨.inl (head_field.2 field), none_before⟩, .inl ⟨rfl, head_field.2 field⟩⟩

theorem orderFaultAt_zero (l : List Segment) : ¬ OrderFaultAt l 0 := by
  rintro ⟨m, _, _, h, -⟩
  cases h

/-- ORDER is looked for pair by pair (R89). -/
theorem orderFault_finds (l : List Segment) (m : Nat) : Finds (OrderFaultAt l) m (orderFault m l) := by
  induction l generalizing m with
  | nil =>
    rintro n ⟨k, g, h, -, hg, -⟩
    cases hg
  | cons g rest ih =>
    cases rest with
    | nil =>
      rintro n ⟨k, u, v, rfl, -, hv, -⟩
      cases hv
    | cons h rest =>
      refine finds_later (orderFaultAt_zero _) ?_
      have first : OrderFaultAt (g :: h :: rest) 1 ↔ h.basePage.toNat < g.basePage.toNat + g.pageCount.toNat := by
        simp [OrderFaultAt]
      rw [orderFault]
      split
      next fault => exact finds_here (first.2 fault)
      next sound =>
        refine (ih (m + 1)).congr fun n => ?_
        cases n with
        | zero => exact iff_of_false (orderFaultAt_zero _) (mt first.1 sound)
        | succ n => simp [OrderFaultAt]

/-- A NOTICE record at fault where a NOTICE record has come before the list exactly if `seen`. -/
def NoticeFaultAfter (seen : Bool) (l : List Segment) (n : Nat) : Prop :=
  ∃ g, l[n]? = some g ∧ g.kindCode = 4 ∧
    (g.pageCount ≠ 1 ∨ seen = true ∨ ∃ k u, k < n ∧ l[k]? = some u ∧ u.kindCode = 4)

theorem noticeFaultAfter_cons {seen : Bool} {g : Segment} {rest : List Segment} (n : Nat) :
    NoticeFaultAfter seen (g :: rest) (n + 1) ↔ NoticeFaultAfter (seen || decide (g.kindCode = 4)) rest n := by
  refine exists_congr fun u => and_congr Iff.rfl (and_congr Iff.rfl (or_congr Iff.rfl ?_))
  rw [Bool.or_eq_true, decide_eq_true_eq]
  constructor
  · rintro (before | ⟨_ | k, v, hk, hv, code⟩)
    · exact .inl (.inl before)
    · exact .inl (.inr (by rw [Option.some.inj hv]; exact code))
    · exact .inr ⟨k, v, Nat.lt_of_succ_lt_succ hk, hv, code⟩
  · rintro ((before | code) | ⟨k, v, hk, hv, code⟩)
    · exact .inl before
    · exact .inr ⟨0, g, Nat.succ_pos n, rfl, code⟩
    · exact .inr ⟨k + 1, v, Nat.succ_lt_succ hk, hv, code⟩

theorem noticeFaultAfter_zero {seen : Bool} {g : Segment} {rest : List Segment} :
    NoticeFaultAfter seen (g :: rest) 0 ↔ g.kindCode = 4 ∧ (g.pageCount ≠ 1 ∨ seen = true) := by
  simp [NoticeFaultAfter]

theorem noticeFault_finds (l : List Segment) (m : Nat) (seen : Bool) :
    Finds (NoticeFaultAfter seen l) m (noticeFault m seen l) := by
  induction l generalizing m seen with
  | nil =>
    rintro n ⟨g, hg, -⟩
    cases hg
  | cons g rest ih =>
    rw [noticeFault]
    by_cases notice : g.kindCode = 4
    · rw [if_pos (kind_notice.2 notice)]
      split
      next fault =>
        refine finds_here (noticeFaultAfter_zero.2 ⟨notice, ?_⟩)
        simpa [or_comm] using fault
      next sound =>
        refine finds_later (fun fault => sound ?_) ((ih (m + 1) true).congr fun n => ?_)
        · simpa [or_comm] using (noticeFaultAfter_zero.1 fault).2
        · rw [noticeFaultAfter_cons, decide_eq_true notice, Bool.or_true]
    · rw [if_neg (mt kind_notice.1 notice)]
      refine finds_later (fun fault => notice (noticeFaultAfter_zero.1 fault).1) ((ih (m + 1) seen).congr fun n => ?_)
      rw [noticeFaultAfter_cons, decide_eq_false notice, Bool.or_false]

theorem noticeFaultAt_iff (l : List Segment) (n : Nat) : NoticeFaultAfter false l n ↔ NoticeFaultAt l n := by
  simp [NoticeFaultAfter, NoticeFaultAt]

/-! ### GUARD and OVERLAP, where every record passes its own checks (R90) -/

theorem mem_claimSegments {l : List Segment} {c : Segment} : c ∈ claimSegments l ↔ c ∈ l ∧ c.kindCode = 2 := by
  simp [claimSegments, kind_claim]

theorem guardOutside_iff {g : Segment} (sound : g.RangeSound) (l : List Segment) :
    g.guardOutside l = true ↔ g.kindCode = 1 ∧ g.descriptor.getLsbD 24 = true ∧ ∀ c ∈ l, c.kindCode = 2 →
      ¬ (c.baseFrame.toNat * 1024 ≤ (g.descriptor.extractLsb' 0 24).toNat ∧
        (g.descriptor.extractLsb' 0 24).toNat < (c.baseFrame.toNat + c.pageCount.toNat) * 1024) := by
  simp only [Segment.guardOutside, Bool.and_eq_true, decide_eq_true_eq, kind_plain]
  refine and_congr Iff.rfl ?_
  by_cases present : g.guardPresent = true
  · have small : (g.guardField.setWidth 22).toNat = g.guardField.toNat := by
      have bound : g.guardField.toNat ≤ 0x3FFFFF := sound.2.2.2.2 present
      rw [BitVec.toNat_setWidth]
      omega
    refine Iff.trans ?_ (and_iff_right present).symm
    simp only [Segment.guard, present, if_true, Option.any_some, Bool.not_eq_true', List.any_eq_false, mem_claimSegments,
      Segment.holdsAddress, small, Bool.and_eq_true, decide_eq_true_eq, and_imp]
    rfl
  · have unguarded : g.guard = none := if_neg present
    rw [unguarded]
    exact iff_of_false Bool.false_ne_true fun h => present h.1

theorem overlapsClaim_iff {g : Segment} {l : List Segment} (sound : g.RangeSound) (all_sound : ∀ c ∈ l, c.RangeSound) :
    g.overlapsClaim l = true ↔ g.kindCode = 1 ∧ ∃ c, c ∈ l ∧ c.kindCode = 2 ∧
      ∃ frame, (g.baseFrame.toNat ≤ frame ∧ frame < g.baseFrame.toNat + g.pageCount.toNat) ∧
        c.baseFrame.toNat ≤ frame ∧ frame < c.baseFrame.toNat + c.pageCount.toNat := by
  simp only [Segment.overlapsClaim, Bool.and_eq_true, decide_eq_true_eq, kind_plain, List.any_eq_true, mem_claimSegments,
    Segment.sharesFrame, and_assoc]
  refine and_congr Iff.rfl (exists_congr fun c => and_congr_right fun hc => and_congr Iff.rfl ⟨fun ⟨below, above⟩ => ?_, ?_⟩)
  · obtain ⟨-, own, -⟩ := sound
    obtain ⟨-, other, -⟩ := all_sound c hc
    exact ⟨max g.baseFrame.toNat c.baseFrame.toNat, by omega, by omega, by omega, by omega⟩
  · rintro ⟨frame, h1, h2, h3, h4⟩
    exact ⟨by omega, by omega⟩

theorem rangeSound_of_no_fault {l : List Segment} (h : ∀ n, ¬ (FieldFaultAt l n ∨ RangeFaultAt l n)) {g : Segment} (hg : g ∈ l) :
    g.RangeSound := by
  obtain ⟨n, hn⟩ := List.mem_iff_getElem?.1 hg
  by_contra fault
  exact h n (.inr ⟨g, hn, fault⟩)

theorem guardOutside_finds {l : List Segment} (h : ∀ n, ¬ (FieldFaultAt l n ∨ RangeFaultAt l n)) :
    Finds (GuardFaultAt l) 0 (l.findIdx? fun g => g.guardOutside l) :=
  (finds_findIdx? _ l).congr fun _ => exists_congr fun _ => and_congr_right fun hg =>
    guardOutside_iff (rangeSound_of_no_fault h (List.mem_of_getElem? hg)) l

theorem overlapsClaim_finds {l : List Segment} (h : ∀ n, ¬ (FieldFaultAt l n ∨ RangeFaultAt l n)) :
    Finds (OverlapFaultAt l) 0 (l.findIdx? fun g => g.overlapsClaim l) := by
  refine (finds_findIdx? _ l).congr fun n => exists_congr fun g => ?_
  rw [exists_and_left]
  refine and_congr_right fun hg => ?_
  rw [overlapsClaim_iff (rangeSound_of_no_fault h (List.mem_of_getElem? hg)) fun c hc => rangeSound_of_no_fault h hc]
  exact (exists_and_left).symm

/-! ### The order of the checks -/

/-- The outcome of the searches, each made where the ones before found nothing: the reason, and the number that it names. -/
theorem listFault_cases (l : List Segment) :
    let record (n : Nat) : Prop := FieldFaultAt l n ∨ RangeFaultAt l n
    (∃ n, listFault l = some (.field, n) ∧ FirstAt record n ∧ FieldFaultAt l n) ∨
    (∃ n, listFault l = some (.range, n) ∧ FirstAt record n ∧ ¬ FieldFaultAt l n) ∨
    ((∀ k, ¬ record k) ∧ ((∃ n, listFault l = some (.order, n) ∧ FirstAt (OrderFaultAt l) n) ∨
    ((∀ k, ¬ OrderFaultAt l k) ∧ ((∃ n, listFault l = some (.notice, n) ∧ FirstAt (NoticeFaultAt l) n) ∨
    ((∀ k, ¬ NoticeFaultAt l k) ∧ ((∃ n, listFault l = some (.guard, n) ∧ FirstAt (GuardFaultAt l) n) ∨
    ((∀ k, ¬ GuardFaultAt l k) ∧ ((∃ n, listFault l = some (.overlap, n) ∧ FirstAt (OverlapFaultAt l) n) ∨
    (listFault l = none ∧ ∀ k, ¬ OverlapFaultAt l k))))))))) := by
  intro record
  have records := recordFault_finds l 0
  have order := orderFault_finds l 0
  have notice := (noticeFault_finds l 0 false).congr (noticeFaultAt_iff l)
  unfold listFault
  cases hr : recordFault 0 l with
  | some f =>
    rw [hr] at records
    obtain ⟨n, hk, first, ⟨hf, field⟩ | ⟨hf, not_field⟩⟩ := records
    · exact .inl ⟨n, by rw [← hf, ← Nat.zero_add n, ← hk], first, field⟩
    · exact .inr (.inl ⟨n, by rw [← hf, ← Nat.zero_add n, ← hk], first, not_field⟩)
  | none =>
    rw [hr] at records
    refine .inr (.inr ⟨records, ?_⟩)
    have guard := guardOutside_finds records
    have overlap := overlapsClaim_finds records
    cases ho : orderFault 0 l with
    | some k =>
      rw [ho] at order
      obtain ⟨n, hk, first⟩ := order
      exact .inl ⟨n, by rw [hk, Nat.zero_add], first⟩
    | none =>
      rw [ho] at order
      refine .inr ⟨order, ?_⟩
      cases hn : noticeFault 0 false l with
      | some k =>
        rw [hn] at notice
        obtain ⟨n, hk, first⟩ := notice
        exact .inl ⟨n, by rw [hk, Nat.zero_add], first⟩
      | none =>
        rw [hn] at notice
        refine .inr ⟨notice, ?_⟩
        cases hg : l.findIdx? fun g => g.guardOutside l with
        | some k =>
          rw [hg] at guard
          obtain ⟨n, hk, first⟩ := guard
          exact .inl ⟨n, by rw [hk, Nat.zero_add], first⟩
        | none =>
          rw [hg] at guard
          refine .inr ⟨guard, ?_⟩
          cases hv : l.findIdx? fun g => g.overlapsClaim l with
          | some k =>
            rw [hv] at overlap
            obtain ⟨n, hk, first⟩ := overlap
            exact .inl ⟨n, by rw [hk, Nat.zero_add], first⟩
          | none =>
            rw [hv] at overlap
            exact .inr ⟨rfl, overlap⟩

/-- Settles O40: each reason is found exactly where its search is reached and finds. -/
theorem replacementListChecks : Obligations.ReplacementListChecks := by
  intro l record
  rcases listFault_cases l with ⟨m, found, first, field⟩ | ⟨m, found, first, not_field⟩ | ⟨no_record, ⟨m, found, first⟩ |
      ⟨no_order, ⟨m, found, first⟩ | ⟨no_notice, ⟨m, found, first⟩ | ⟨no_guard, ⟨m, found, first⟩ | ⟨found, no_overlap⟩⟩⟩⟩⟩
  all_goals
    rw [found]
    grind [FirstAt]

/-! ### Translation through a sound list -/

theorem listFault_of_sound {l : List Segment} (h : PortMap.sound (.mapped l) = true) : listFault l = none := by
  simp only [PortMap.sound, Bool.and_eq_true, decide_eq_true_eq] at h
  exact h.2

theorem rangeSound_of_sound {l : List Segment} (h : PortMap.sound (.mapped l) = true) {g : Segment} (hg : g ∈ l) : g.RangeSound :=
  rangeSound_of_no_fault (fun n => ((replacementListChecks l).1.1 (listFault_of_sound h) n).1) hg

/-- The pages of `g` all come before those of `h`. -/
def Segment.PagesBefore (g h : Segment) : Prop := g.basePage.toNat + g.pageCount.toNat ≤ h.basePage.toNat

/-- In a list without an ORDER fault the pages of each record come before those of every later one (R89). -/
theorem pagesBefore_of_sound {l : List Segment} (h : PortMap.sound (.mapped l) = true) : l.Pairwise Segment.PagesBefore := by
  have trans : Trans Segment.PagesBefore Segment.PagesBefore Segment.PagesBefore :=
    ⟨fun first second => first.trans ((Nat.le_add_right _ _).trans second)⟩
  refine List.isChain_iff_pairwise.1 (List.isChain_iff_getElem.2 fun n hn => Nat.le_of_not_lt fun fault => ?_)
  have no_fault := ((replacementListChecks l).1.1 (listFault_of_sound h) (n + 1)).2.1
  exact no_fault ⟨n, l[n], l[n + 1], rfl, List.getElem?_eq_getElem _, List.getElem?_eq_getElem _, fault⟩

/-- One record of a sound list covers a page. -/
theorem covering_unique {l : List Segment} (h : PortMap.sound (.mapped l) = true) {g u : Segment} {page : Nat} (hg : g ∈ l)
    (hu : u ∈ l) (covers_g : g.covers page = true) (covers_u : u.covers page = true) : u = g := by
  have apart : l.Pairwise fun g u => g.PagesBefore u ∨ u.PagesBefore g := (pagesBefore_of_sound h).imp Or.inl
  have symm : Std.Symm fun g u : Segment => g.PagesBefore u ∨ u.PagesBefore g := ⟨fun _ _ => Or.symm⟩
  by_contra other
  obtain ⟨g_from, g_to⟩ := covers_iff.1 covers_g
  obtain ⟨u_from, u_to⟩ := covers_iff.1 covers_u
  rcases apart.forall hu hg other with before | before
  · exact absurd (u_to.trans_le before) (Nat.not_lt.2 g_from)
  · exact absurd (g_to.trans_le before) (Nat.not_lt.2 u_from)

theorem translate_mapped_covered {l : List Segment} (h : PortMap.sound (.mapped l) = true) {g : Segment} {a : LogAddr} (hg : g ∈ l)
    (covers : g.covers (a.toNat / 1024) = true) : PortMap.translate (.mapped l) a = g.route a := by
  cases found : l.find? fun g => g.covers (a.toNat / 1024) with
  | none => exact absurd covers (List.find?_eq_none.1 found g hg)
  | some u =>
    have covers_u : u.covers (a.toNat / 1024) = true := List.find?_some (p := fun g : Segment => g.covers (a.toNat / 1024)) found
    obtain rfl := covering_unique h hg (List.mem_of_find?_eq_some found) covers covers_u
    simp only [PortMap.translate, found]

/-- The physical address of an address that a sound record covers does not overflow (R82, R88). -/
theorem place_toNat {g : Segment} {a : LogAddr} (sound : g.RangeSound) (not_notice : g.kindCode ≠ 4)
    (covers : g.covers (a.toNat / 1024) = true) :
    (g.place a).toNat + g.basePage.toNat * 1024 = g.baseFrame.toNat * 1024 + a.toNat := by
  obtain ⟨-, -, -, frames, -⟩ := sound
  have inside := frames not_notice
  obtain ⟨above, below⟩ := covers_iff.1 covers
  rw [Segment.place, BitVec.toNat_ofNat, Nat.mod_eq_of_lt (by omega)]
  omega

/-- The guard of a record by the bits of its descriptor (R172). -/
theorem guard_eq (g : Segment) : g.guard =
    if g.descriptor.getLsbD 24 then
      some { address := g.descriptor.extractLsb' 0 22, readsToo := g.descriptor.getLsbD 25 }
    else none := by
  have address : g.guardField.setWidth 22 = g.descriptor.extractLsb' 0 22 := by
    unfold Segment.guardField
    ext i hi
    simp
    omega
  rw [Segment.guard, address]
  rfl

/-- A PLAIN record routes an address to its place, with its access and its guard (R85). -/
theorem route_plain {g : Segment} {access : PlainAccess} (kind : g.kind = some .plain)
    (field : attributeOf g.attributeCode = .access access) (a : LogAddr) : g.route a = .memory (g.place a) (.plain access g.guard) := by
  unfold Segment.route
  split
  next own _ found =>
    cases found.symm.trans field
    rfl
  next is_claim _ => cases kind.symm.trans is_claim
  next is_view => cases kind.symm.trans is_view
  next is_notice => cases kind.symm.trans is_notice
  next not_plain _ => exact (not_plain access kind field).elim

/-- A CLAIM record routes an address to its place, with its claim mode, lease length and wait limit (R85). -/
theorem route_claim {g : Segment} {mode : ClaimMode} (kind : g.kind = some .claim)
    (field : attributeOf g.attributeCode = .mode mode) (a : LogAddr) :
    g.route a = .memory (g.place a) (.claim { mode := mode, lease := g.lease, limit := g.limit }) := by
  unfold Segment.route
  split
  next is_plain _ => cases kind.symm.trans is_plain
  next own _ found =>
    cases found.symm.trans field
    rfl
  next is_view => cases kind.symm.trans is_view
  next is_notice => cases kind.symm.trans is_notice
  next not_claim => exact (not_claim mode kind field).elim

/-- What a record makes of an address, by the codes of its descriptor: the target, or notice traffic (R85, R172). -/
theorem route_of_codes {g : Segment} {target : Target}
    (h : (g.kindCode = 1 ∧ g.attributeCode = 1 ∧ target = .plain .readOnly g.guard) ∨
      (g.kindCode = 1 ∧ g.attributeCode = 2 ∧ target = .plain .readWrite g.guard) ∨
      (g.kindCode = 2 ∧ g.attributeCode = 3 ∧ target = .claim { mode := .poll, lease := g.lease, limit := g.limit }) ∨
      (g.kindCode = 2 ∧ g.attributeCode = 4 ∧ target = .claim { mode := .queue, lease := g.lease, limit := g.limit }) ∨
      (g.kindCode = 2 ∧ g.attributeCode = 5 ∧ target = .claim { mode := .wait, lease := g.lease, limit := g.limit }) ∨
      (g.kindCode = 3 ∧ target = .view)) (a : LogAddr) : g.route a = .memory (g.place a) target := by
  rcases h with ⟨kind, code, rfl⟩ | ⟨kind, code, rfl⟩ | ⟨kind, code, rfl⟩ | ⟨kind, code, rfl⟩ | ⟨kind, code, rfl⟩ | ⟨kind, rfl⟩
  · exact route_plain (kind_plain.2 kind) (congrArg attributeOf code) a
  · exact route_plain (kind_plain.2 kind) (congrArg attributeOf code) a
  · exact route_claim (kind_claim.2 kind) (congrArg attributeOf code) a
  · exact route_claim (kind_claim.2 kind) (congrArg attributeOf code) a
  · exact route_claim (kind_claim.2 kind) (congrArg attributeOf code) a
  · rw [Segment.route, kind_view.2 kind]

/-- Settles O16: in a sound list one record covers the page, and its address does not overflow. -/
theorem translationFollowsSegment : Obligations.TranslationFollowsSegment := by
  refine ⟨fun a => ⟨_, rfl, ?_⟩, fun l a => translate_mapped_uncovered, fun l g a sound hg above below => ?_⟩
  · rw [BitVec.toNat_setWidth, Nat.mod_eq_of_lt (by omega)]
  · intro guard
    have covers : g.covers (a.toNat / 1024) = true := covers_iff.2 ⟨above, below⟩
    have guard_bits : guard = g.guard := (guard_eq g).symm
    rw [translate_mapped_covered sound hg covers, guard_bits]
    refine ⟨fun kind => ?_, fun target codes => ⟨_, route_of_codes codes a, place_toNat (rangeSound_of_sound sound hg) ?_ covers⟩⟩
    · rw [Segment.route, kind_notice.2 kind]
    · rcases codes with ⟨kind, -⟩ | ⟨kind, -⟩ | ⟨kind, -⟩ | ⟨kind, -⟩ | ⟨kind, -⟩ | ⟨kind, -⟩ <;> omega

end Sys2Proof.Machine
end

section
/-! The statement on requests that wait (R123). -/

namespace Sys2Proof.Machine

/-- A request that the port does not take is put on its pins, whatever the access. -/
theorem exec_access_waits {c : Instr} {s : State} {p : Port} {r : Request} (hc : Instr.access c = some (p, r))
    (online : (s.port p).resetAsserted = false) (held : s.takes p = false) :
    exec c s = .next (s.setPresented p (some r)) := by
  have ended : (s.setPresented p (some r)).endEvent s = s.setPresented p (some r) :=
    endEvent_phases ⟨rfl, rfl, rfl, rfl, rfl, rfl, rfl⟩ (fun q => by by_cases h : q = p <;> simp [h])
      fun q => by by_cases h : q = p <;> simp [h]
  rw [exec_access hc]
  cases r.direction with
  | read => simp only [present_waits online held]
  | write d => simp only [State.presentWrite, present_waits online held, ended]

/-- A master in reset presents nothing, whatever the access. -/
theorem exec_access_offline {c : Instr} {s : State} {p : Port} {r : Request} (hc : Instr.access c = some (p, r))
    (offline : (s.port p).resetAsserted = true) : exec c s = .next s := by
  rw [exec_access hc]
  cases r.direction with
  | read => simp only [present_offline offline]
  | write d => simp only [State.presentWrite, present_offline offline, endEvent_self]

/-- A request that the port takes is taken, and then those that waited for that, whatever the access. -/
theorem exec_access_taken {c : Instr} {s : State} {p : Port} {r : Request} (hc : Instr.access c = some (p, r))
    (takes : s.takes p = true) : exec c s = .next ((s.take p r).takeReady s) := by
  obtain ⟨-, online, running, -⟩ := takes_iff.1 takes
  have within := (take_changes takes r).within
  have taken : s.present p r = s.take p r := by simp [State.present, online, takes]
  rw [exec_access hc]
  cases hr : r.direction with
  | read =>
    have none_ready : (s.take p r).ready s = [] := ready_eq_nil.2 fun q hq => .inl (by
      by_cases hqp : q = p
      · exact hqp ▸ takes
      · have other := take_read_port_other hqp hr (s := s)
        rwa [takes_congr (s := s) (t := s.take p r) (by rw [other]) (by rw [other]) within] at hq)
    simp only [taken, takeReady_nil none_ready]
  | write d =>
    have not_draining : (s.take p r).quiesce ≠ .draining := by rw [within.quiesce, running]; simp
    simp only [State.presentWrite, taken, endEvent_eq (.inr (.inr (.inl not_draining)))]

theorem ready_nodup (s before : State) : (s.ready before).Nodup := by
  refine (List.nodup_finRange 4).filterMap fun p q x hp hq => ?_
  split at hp
  · split at hq
    · obtain ⟨_, -, rfl⟩ := Option.map_eq_some_iff.1 hp
      obtain ⟨_, -, same⟩ := Option.map_eq_some_iff.1 hq
      exact (congrArg Prod.fst same).symm
    · cases hq
  · cases hp

theorem ready_eq_singleton {s before : State} {p : Port} {r : Request} (hr : (p, r) ∈ s.ready before)
    (alone : ∀ q, q ≠ p → s.takes q = true → before.takes q = false → (s.port q).presented = none) :
    s.ready before = [(p, r)] := by
  refine List.perm_singleton.1 ((List.perm_ext_iff_of_nodup (ready_nodup s before) (List.nodup_singleton _)).2 ?_)
  rintro ⟨q, r'⟩
  rw [List.mem_singleton, Prod.mk.injEq]
  constructor
  · intro hq
    obtain ⟨takes, took, presented⟩ := mem_ready.1 hq
    by_cases hqp : q = p
    · subst hqp
      rw [(mem_ready.1 hr).2.2] at presented
      exact ⟨rfl, (Option.some.inj presented).symm⟩
    · rw [alone q hqp takes took] at presented
      cases presented
  · rintro ⟨rfl, rfl⟩
    exact hr

/-- Where one request is ready, it is taken, and then those that waited for that. -/
theorem takeReady_singleton {s before : State} {p : Port} {r : Request} (h : s.ready before = [(p, r)]) :
    s.takeReady before = (s.take p r).takeReady before := by
  have first : s.takeReady before = State.takeReadyWithin before 3 (s.take p r) := by
    rw [State.takeReady, State.takeReadyWithin, h]
    rfl
  have fewer : (s.take p r).waiting.card < s.waiting.card := by
    have taken := waiting_take_lt (s := s) (before := before) (h ▸ List.mem_singleton_self _) 1
    simpa [State.chosen] using taken
  have few := waiting_card_le s
  rw [first]
  exact takeReadyWithin_enough before 3 4 _ (by omega) (by omega)

/-- Settles O19: the taking of waiting requests runs until none is ready, one as its access would be taken. -/
theorem requestWaitsUntilTaken : Obligations.RequestWaitsUntilTaken := by
  refine ⟨fun s c p r hc => ⟨exec_access_offline hc, fun online held => ?_⟩, fun s before => ⟨fun p takes took => ?_,
    fun none_waits => ?_, fun c p r hc takes took presented alone => ?_⟩, fun s p => takes_iff⟩
  · exact ⟨_, exec_access_waits hc online ((takes_false_iff online).2 held), port_setPresented_same ..,
      fun q hq => port_setPresented_other _ _ _ _ hq, rfl⟩
  · rcases ready_eq_nil.1 (takeReady_ready s before) p takes with before_took | absent
    · rw [took] at before_took
      cases before_took
    · exact absent
  · refine takeReady_nil (ready_eq_nil.2 fun p takes => ?_)
    cases took : before.takes p with
    | true => exact .inl rfl
    | false => exact .inr (none_waits p takes took)
  · exact ⟨_, exec_access_taken hc takes, takeReady_singleton (ready_eq_singleton (mem_ready.2 ⟨takes, took, presented⟩) alone)⟩

end Sys2Proof.Machine
end

section
/-! The statements on the arbiter (R139 to R142, R105, R15): which requester a grant goes to, and what it does for it. -/

namespace Sys2Proof.Machine

/-! ### The requester that is granted -/

theorem rank_le (q : Requester) : q.rank ≤ 4 := by
  cases q with
  | port p => exact Nat.le_of_lt p.isLt
  | writeBack => exact le_rfl

theorem exists_next {s : State} (h : ∃ q, s.requests q = true) : ∃ q, s.Next q := by
  obtain ⟨q, hq⟩ := Option.isSome_iff_exists.1 (nextGrant_isSome_iff.2 h)
  exact ⟨q, next_of_nextGrant hq⟩

/-- Every requester that is not the granted one moves nearer, as far as the granted one stood from the pointer. -/
theorem distance_after_grant {pointer q r : Requester} (other : r ≠ q) (next : Requester.distance pointer q ≤ Requester.distance pointer r) :
    Requester.distance q r < Requester.distance pointer r := by
  have apart : Requester.distance pointer q ≠ Requester.distance pointer r := fun same => other (distance_inj same).symm
  have hp := rank_le pointer
  have hq := rank_le q
  have hr := rank_le r
  simp only [Requester.distance] at next apart ⊢
  omega

theorem requests_port_iff {s : State} {p : Port} : s.requests (.port p) = true ↔ ∃ t, (s.port p).phase = .queued t := by
  cases h : (s.port p).phase <;> simp [State.requests, h, Phase.queuedTransaction]

theorem requests_writeBack_iff {s : State} : s.requests .writeBack = true ↔ s.writeBackQueue ≠ [] := by
  simp [State.requests]

/-! ### What each grant is -/

theorem grant_port {s : State} {p : Port} {t : Transaction} (queued : (s.port p).phase = .queued t) :
    s.grant (.port p) = (s.setPointer (.port p)).grantPort p t := by
  simp [State.grant, queued, Phase.queuedTransaction]

theorem grant_pointer {s : State} {q : Requester} (h : s.requests q = true) : (s.grant q).memPort.pointer = q := by
  cases q with
  | port p =>
    obtain ⟨t, queued⟩ := requests_port_iff.1 h
    rw [grant_port queued]
    unfold State.grantPort
    split <;> rfl
  | writeBack =>
    simp only [State.grant, State.grantWriteBack]
    split
    · rfl
    · split <;> rfl

theorem endEvent_memPort (s before : State) : (s.endEvent before).memPort = s.memPort := by
  have taken : ∀ u : State, (u.takeReady before).memPort = u.memPort := fun u => by
    have frame := takeReady_frame u before
    generalize u.takeReady before = t at frame ⊢
    exact (congrArg State.memPort frame :)
  unfold State.endEvent
  split
  · exact taken s
  · rw [taken]
    rcases drainEnd_cases s with ⟨_, _, _, _, h⟩ | ⟨_, h⟩ <;> rw [h]

/-- Settles O20: the search finds the nearest requester, and the pointer goes to it. -/
theorem grantFollowsRoundRobin : Obligations.GrantFollowsRoundRobin := by
  refine ⟨fun s free present => ?_, fun s h => ?_, fun s p => requests_port_iff, fun s => requests_writeBack_iff⟩
  · obtain ⟨q, next⟩ := exists_next present
    have pointer : (s.arbitrate.endEvent s).memPort.pointer = q := by
      rw [endEvent_memPort, arbitrate_next free next, grant_pointer next.1]
    refine ⟨q, next, _, rfl, pointer, fun r other requests => ?_⟩
    rw [pointer]
    exact distance_after_grant other (next.2 r requests)
  · exact congrArg Host.Outcome.next ((congrArg (State.endEvent · s) (arbitrate_none h)).trans (endEvent_self s))

/-! ### Grants to ports (R141, R142) -/

theorem occupied_eq_false {s : State} {x : PhysAddr} : s.occupied x = false ↔ ∀ i, (s.entry i).address ≠ some x := by
  rw [← Bool.not_eq_true, occupied_iff]
  exact not_exists

theorem grantPort_issues {s : State} {p : Port} {t : Transaction}
    (h : t.purpose = .plainWrite → ∀ i, (s.entry i).address ≠ some t.physical) : s.grantPort p t = s.issue p t := by
  have not_refused : ¬ (t.purpose = .plainWrite && s.occupied t.physical) = true := by
    rw [Bool.and_eq_true, decide_eq_true_eq]
    rintro ⟨write, occupied⟩
    rw [occupied_eq_false.2 (h write)] at occupied
    cases occupied
  rw [State.grantPort, if_neg not_refused]

/-- A port that goes from QUEUED to IN-MEMORY ends no drain, and no request waited for that. -/
theorem endEvent_issued {s u : State} {p : Port} {t : Transaction} (within : Within s u)
    (issued : u.port p = { s.port p with phase := .inMemory t }) (others : PortsSameBut s u p) : u.endEvent s = u := by
  have busy : u.allDrained = false := Bool.eq_false_iff.2 fun drained => by
    rcases allDrained_iff.1 drained p with idle | ⟨_, stalled⟩
    · rw [issued] at idle
      cases idle
    · rw [issued] at stalled
      cases stalled
  rw [endEvent_eq (.inr (.inl busy)), takeReady_nil (ready_eq_nil.2 fun q takes => .inl ?_)]
  by_cases hq : q = p
  · have idle := (takes_iff.1 takes).2.2.2
    rw [hq, issued] at idle
    cases idle
  · have same := others q hq
    rwa [takes_congr (s := s) (t := u) (by rw [same]) (by rw [same]) within] at takes

/-- Settles O21: the grant issues, or refuses a plain write whose word has an entry. -/
theorem grantToPortIssues : Obligations.GrantToPortIssues := by
  intro s p t free queued next
  refine ⟨fun work hw => ?_, fun d i write data occupied => ?_⟩
  · have work_eq : t.work = work := by
      rcases hw with ⟨h, rfl⟩ | ⟨h, rfl⟩ | ⟨h, rfl⟩ | ⟨d, h, data, -, rfl⟩ <;> simp only [Transaction.work, h]
      rw [data]
    have unoccupied : t.purpose = .plainWrite → ∀ i, (s.entry i).address ≠ some t.physical := by
      rcases hw with ⟨h, -⟩ | ⟨h, -⟩ | ⟨h, -⟩ | ⟨d, h, -, absent, -⟩ <;> simp [h]
      exact absent
    have granted : s.arbitrate = (s.setPointer (.port p)).issue p t := by
      rw [arbitrate_next free next, grant_port queued]
      exact grantPort_issues (s := s.setPointer (.port p)) unoccupied
    have issued : s.arbitrate.port p = { s.port p with phase := .inMemory t } := by
      rw [granted]
      exact port_setPhase_same ..
    have others : PortsSameBut s s.arbitrate p := fun q hq => by
      rw [granted]
      exact port_setPhase_other _ _ _ _ hq
    have ended := endEvent_issued (arbitrate_changes s).within issued others
    refine ⟨s.arbitrate, congrArg Host.Outcome.next ended, ?_, issued, others, ?_⟩
    · rw [granted, ← work_eq]
      rfl
    · rw [granted]
      rfl
  · obtain ⟨⟨completed, pointer, log, frame⟩, same_index, -⟩ :=
      arbitrate_refused free.2 ⟨free.1, next, queued, write, i, occupied⟩
    rw [data] at completed log
    rw [← same_index] at frame
    refine ⟨s.arbitrate, rfl, ?_, completed, log, frame⟩
    simp only [pointer, free.2]

/-! ### The grant of a write-back (R15) -/

theorem grantWriteBack_eq {s : State} {i : Slot} {rest : List Slot} {r : RetiringEntry} (queue : s.writeBackQueue = i :: rest)
    (entry : s.entry i = .retiring r) :
    s.grantWriteBack = ((s.setQueue rest).setOperation (some (.ofWriteBack i r.address (claimWord r.ticket r.payload)))).setEntry i
      (.retiring { r with writeBack := some { written := r.ticket, regranted := false } }) := by
  have after_queue : (s.setQueue rest).entry i = .retiring r := entry
  simp only [State.grantWriteBack, queue, after_queue]

/-- Settles O22: the head slot is taken and its claim word issued. -/
theorem grantIssuesWriteBack : Obligations.GrantIssuesWriteBack := by
  intro s i rest r free next queue entry
  have granted := (arbitrate_next free next).trans (grantWriteBack_eq (s := s.setPointer .writeBack) queue entry)
  obtain ⟨upper, ticket, payload⟩ := claimWord_fields r.ticket r.payload
  have within := (arbitrate_changes s).within
  rw [granted] at within
  refine ⟨_, congrArg Host.Outcome.next ((congrArg (State.endEvent · s) granted).trans
    (endEvent_same rfl within.quiesce within.partReset)), rfl, entry_setEntry_same .., fun j hj => entry_setEntry_other _ _ _ _ hj,
    ⟨_, rfl, upper, ticket, payload⟩, rfl⟩

end Sys2Proof.Machine
end

section
/-! The statements on the completion of a port's plain or view operation (R97, R98, R108, R143, R34). -/

namespace Sys2Proof.Machine

/-! ### Words and lanes -/

theorem laneOf_wordOfLanes (l3 l2 l1 l0 : Byte) :
    laneOf (wordOfLanes l3 l2 l1 l0) 0 = l0 ∧ laneOf (wordOfLanes l3 l2 l1 l0) 1 = l1 ∧
      laneOf (wordOfLanes l3 l2 l1 l0) 2 = l2 ∧ laneOf (wordOfLanes l3 l2 l1 l0) 3 = l3 :=
  ⟨(extract_lower _ l0 le_rfl).trans BitVec.extractLsb'_eq_self,
    (extract_upper (l3 ++ l2 ++ l1) l0 0 8).trans ((extract_lower _ l1 le_rfl).trans BitVec.extractLsb'_eq_self),
    (extract_upper (l3 ++ l2 ++ l1) l0 8 8).trans ((extract_upper (l3 ++ l2) l1 0 8).trans
      ((extract_lower _ l2 le_rfl).trans BitVec.extractLsb'_eq_self)),
    (extract_upper (l3 ++ l2 ++ l1) l0 16 8).trans ((extract_upper (l3 ++ l2) l1 8 8).trans
      ((extract_upper l3 l2 0 8).trans BitVec.extractLsb'_eq_self))⟩

theorem readWord_lane (m : List Host.Cell) (x : PhysAddr) {l : Nat} (hl : l < 4) :
    (readWord m x).extractLsb' (8 * l) 8 = readCell m (4 * x.toNat + l) := by
  obtain ⟨h0, h1, h2, h3⟩ := laneOf_wordOfLanes (readCell m (4 * x.toNat + 3)) (readCell m (4 * x.toNat + 2))
    (readCell m (4 * x.toNat + 1)) (readCell m (4 * x.toNat + 0))
  rcases (by omega : l = 0 ∨ l = 1 ∨ l = 2 ∨ l = 3) with rfl | rfl | rfl | rfl
  · exact h0
  · exact h1
  · exact h2
  · exact h3

/-- Ticket and payload of a word side by side are its low twenty-four bits. -/
theorem viewWord_eq (p : Port) (w : Word) : replyWord .free p 0 (ticketOf w) (payloadOf w) =
    (9 : BitVec 4) ++ portBits p ++ (0 : BitVec 2) ++ w.extractLsb' 0 24 := by
  have both : w.extractLsb' 16 8 ++ w.extractLsb' 0 16 = w.extractLsb' 0 24 :=
    BitVec.extractLsb'_append_extractLsb'_eq_extractLsb' rfl
  unfold replyWord ticketOf payloadOf
  rw [← both]
  apply BitVec.append_assoc

theorem writeWord_written {m : List Host.Cell} (sound : bankWf m = true) (x : PhysAddr) (be : Lanes) (d : Word) :
    BankWritten m (writeWord m x be d) x be d :=
  ⟨fun k hk => writeWord_same_but m x be d k hk, fun l hl => readCell_writeWord m x be d l hl sound⟩

/-! ### A completion that is decided at no entry -/

/-- The bank's part of such a completion, and then the port unit's. -/
theorem complete_plain {s : State} {p : Port} {work : PortWork} {x : PhysAddr} {g : Bool}
    (op : s.memPort.operation = some (.ofPort p work x g)) (plain : work ≠ .grantFetch) (e : Bool) :
    s.complete e = ((s.setOperation none).perform (.ofPort p work x g) e).routePort p work x g e (readWord s.bank x) := by
  rw [complete_port op, raceAtEntry_none]
  cases work with
  | grantFetch => exact absurd rfl plain
  | _ => rfl

theorem routePort_givenUp {s : State} {p : Port} {work : PortWork} (plain : work ≠ .grantFetch) (x : PhysAddr) (e : Bool) (w : Word) :
    s.routePort p work x true e w = s := by
  cases work with
  | grantFetch => exact absurd rfl plain
  | _ => rfl

theorem portDone_returned {s : State} {p : Port} {t : Transaction} (memory : (s.port p).phase = .inMemory t) (r : Reply) :
    s.portDone p false r = s.finish p r := by
  simp [State.portDone, memory, Phase.memoryTransaction]

theorem portDone_error {s : State} {p : Port} {t : Transaction} (memory : (s.port p).phase = .inMemory t) (r : Reply) :
    s.portDone p true r = (s.logFault (transactionFault .memory p t)).finish p t.request.direction.fault := by
  simp [State.portDone, memory, Phase.memoryTransaction]

theorem routePort_error {s : State} {p : Port} {t : Transaction} {work : PortWork} (memory : (s.port p).phase = .inMemory t)
    (plain : work ≠ .grantFetch) (x : PhysAddr) (w : Word) :
    s.routePort p work x false true w = (s.logFault (transactionFault .memory p t)).finish p t.request.direction.fault := by
  cases work with
  | grantFetch => exact absurd rfl plain
  | _ => exact portDone_error memory _

/-- A port's transaction in flight is completed where its unit alone is touched. -/
theorem finish_completed {s u : State} (ports : u.ports = s.ports) (p : Port) (r : Reply) : Completed s (u.finish p r) p r := by
  have same := port_eq_of_ports ports
  refine ⟨?_, fun q hq => ?_⟩
  · rw [port_finish_same, same]
  · rw [port_finish_other _ _ _ _ hq, same]

/-- Where the memory port alone becomes idle and the bank changes, the event ends with nothing more. -/
theorem endEvent_performed (s : State) (op : Operation) (e : Bool) :
    ((s.setOperation none).perform op e).endEvent s = (s.setOperation none).perform op e := by
  have frame := perform_frame (s.setOperation none) op e
  generalize (s.setOperation none).perform op e = t at frame ⊢
  exact endEvent_same (congrArg State.ports frame :) (congrArg State.quiesce frame :) (congrArg State.partReset frame :)

/-- Both rows are the bank's completion of the operation in flight (log 7). -/
theorem exec_plain_completion {c : Instr} {e : Bool} (hc : c = .plainAccessCompletion e ∨ c = .viewReadCompletion e) (s : State) :
    exec c s = .next ((s.complete e).endEvent s) := by
  rcases hc with rfl | rfl <;> rfl

/-- Settles O23: the bank's part, and then the reply of the work. -/
theorem portCompletionReturned : Obligations.PortCompletionReturned := by
  refine ⟨fun m x l hl => readWord_lane m x hl, fun s p x c hc => ⟨fun t work r op memory hr => ?_, fun t be d sound op memory => ?_,
    fun work op hw => ?_, fun be d sound op => ?_⟩⟩
  · have completed : s.complete false = (s.setOperation none).finish p (.data r) := by
      rcases hr with ⟨rfl, rfl⟩ | ⟨rfl, rfl⟩
      · rw [complete_plain op (by simp), perform_read rfl]
        exact portDone_returned (s := s.setOperation none) memory _
      · rw [complete_plain op (by simp), perform_read rfl, ← viewWord_eq]
        exact portDone_returned (s := s.setOperation none) memory _
    refine ⟨_, (exec_plain_completion hc s).trans (congrArg (fun u : State => Host.Outcome.next (u.endEvent s)) completed),
      finish_completed rfl p _, rfl, rfl⟩
  · have completed : s.complete false = ((s.setOperation none).setBank (writeWord s.bank x be d)).finish p .written := by
      rw [complete_plain op (by simp)]
      exact portDone_returned (s := (s.setOperation none).setBank (writeWord s.bank x be d)) memory _
    refine ⟨_, (exec_plain_completion hc s).trans (congrArg (fun u : State => Host.Outcome.next (u.endEvent s)) completed),
      finish_completed rfl p _, writeWord_written sound x be d, rfl, rfl⟩
  · have plain : work ≠ .grantFetch := by rcases hw with rfl | rfl <;> simp
    have read : (Operation.ofPort p work x true).writes = none := by rcases hw with rfl | rfl <;> rfl
    refine ⟨s.setOperation none, (exec_plain_completion hc s).trans (congrArg Host.Outcome.next ?_), rfl, rfl⟩
    rw [complete_plain op plain, routePort_givenUp plain, endEvent_performed, perform_read read]
  · refine ⟨(s.setOperation none).setBank (writeWord s.bank x be d), (exec_plain_completion hc s).trans (congrArg Host.Outcome.next ?_),
      writeWord_written sound x be d, rfl, rfl⟩
    rw [complete_plain op (by simp), routePort_givenUp (by simp), endEvent_performed]
    rfl

/-- What the bank's part of a completion with an error leaves as it was (R138, log 4). -/
theorem perform_error_bank (s : State) (p : Port) (work : PortWork) (x : PhysAddr) (g : Bool) :
    BankSameBut s.bank (s.perform (.ofPort p work x g) true).bank x ∧
      (work = .plainRead ∨ work = .viewRead → (s.perform (.ofPort p work x g) true).bank = s.bank) := by
  cases work with
  | plainWrite be d => exact ⟨writeWord_same_but s.bank x allLanes (Config.failedWriteWord s.freeIndex), fun h => by
    rcases h with h | h <;> cases h⟩
  | _ => exact ⟨fun _ _ => rfl, fun _ => rfl⟩

/-- Settles O24: the bank's part, and then FAULT MEMORY. -/
theorem portCompletionErrorFaults : Obligations.PortCompletionErrorFaults := by
  intro s p x work c hc plain
  have after : ∀ g, ∃ u : State, (s.setOperation none).perform (.ofPort p work x g) true = u ∧ BankSameBut s.bank u.bank x ∧
      (work = .plainRead ∨ work = .viewRead → u.bank = s.bank) ∧
      { u with bank := s.bank, freeIndex := s.freeIndex } = s.setOperation none := fun g => by
    obtain ⟨same_but, read⟩ := perform_error_bank (s.setOperation none) p work x g
    exact ⟨_, rfl, same_but, read, perform_frame (s.setOperation none) (.ofPort p work x g) true⟩
  refine ⟨fun t op memory => ?_, fun op => ?_⟩
  · obtain ⟨u, performed, same_but, read, frame⟩ := after false
    have ports : u.ports = s.ports := (congrArg State.ports frame :)
    have log : u.log = s.log := (congrArg State.log frame :)
    have completed : s.complete true = (u.logFault (transactionFault .memory p t)).finish p t.request.direction.fault := by
      rw [complete_plain op plain, performed]
      exact routePort_error (by rw [port_eq_of_ports ports]; exact memory) plain x _
    refine ⟨_, (exec_plain_completion hc s).trans (congrArg (fun v : State => Host.Outcome.next (v.endEvent s)) completed),
      finish_completed ports p _, congrArg (FaultLog.append · _) log, same_but, read, (congrArg State.memPort frame :), ?_⟩
    exact congrArg (fun v : State => { v with ports := s.ports, memPort := s.memPort, log := s.log }) frame
  · obtain ⟨u, performed, same_but, read, frame⟩ := after true
    refine ⟨u, (exec_plain_completion hc s).trans (congrArg Host.Outcome.next ?_), same_but, read, (congrArg State.memPort frame :), ?_⟩
    · rw [complete_plain op plain, routePort_givenUp plain, endEvent_performed, performed]
    · exact congrArg (fun v : State => { v with memPort := s.memPort }) frame

end Sys2Proof.Machine
end

section
/-! The statements on the completion of a grant fetch and of a write-back, and on the grants that come before it (R10, R11, R16,
R17, R106, R143). -/

namespace Sys2Proof.Machine

/-! ### The log of an event only grows -/

/-- The log of `t` is that of `s` after some records have arrived. -/
def LogGrows (s t : State) : Prop := ∃ records : List FaultRecord, t.log = records.foldl FaultLog.append s.log

theorem logGrows_of_eq {s t : State} (h : t.log = s.log) : LogGrows s t := ⟨[], h⟩

theorem logGrows_append {s t : State} {r : FaultRecord} (h : t.log = s.log.append r) : LogGrows s t := ⟨[r], h⟩

theorem LogGrows.trans {s t u : State} (h : LogGrows s t) (g : LogGrows t u) : LogGrows s u := by
  obtain ⟨first, hf⟩ := h
  obtain ⟨second, hs⟩ := g
  exact ⟨first ++ second, by rw [hs, hf, List.foldl_append]⟩

theorem QueriedFirst.logGrows {s e : State} (h : QueriedFirst s e) : LogGrows s e := by
  induction h with
  | noWrite => exact logGrows_of_eq rfl
  | completionFirst => exact logGrows_of_eq rfl
  | queryFirst _ _ refused _ _ ih => exact (logGrows_append refused.2.2.1).trans ih

/-! ### The first free value of the race -/

theorem refusalNext_unique {s : State} {q r : Port} {t u : Transaction} (h : s.RefusalNext q t) (g : s.RefusalNext r u) :
    r = q ∧ u = t := by
  obtain ⟨-, next_q, queued_q, -⟩ := h
  obtain ⟨-, next_r, queued_r, -⟩ := g
  have same := distance_inj (le_antisymm (next_r.2 _ next_q.1) (next_q.2 _ next_r.1))
  obtain rfl : r = q := Requester.port.inj same
  rw [queued_q] at queued_r
  exact ⟨rfl, (Phase.queued.inj queued_r).symm⟩

/-- Where the next grant refuses a plain write, the free value decides whether it comes first; then the write has completed with
its record before any other. -/
theorem QueriedFirst.decided {s e : State} {q : Port} {t : Transaction} (h : QueriedFirst s e) (next : s.RefusalNext q t) :
    (Config.order s.freeIndex % 2 = 0 ∧ e = { s with freeIndex := s.freeIndex + 1 }) ∨
    (Config.order s.freeIndex % 2 ≠ 0 ∧
      e.port q = { s.port q with phase := .idle, replies := (s.port q).replies ++ [t.request.direction.fault] } ∧
      ∃ records : List FaultRecord, e.log = records.foldl FaultLog.append
        (s.log.append { kind := .claimword, port := some q, access := t.request.direction.field
                        logical := some t.request.logical, physical := some t.physical, ticket := none })) := by
  cases h with
  | noWrite none_next => exact absurd next (none_next q t)
  | completionFirst _ first => exact .inl ⟨first, rfl⟩
  | @queryFirst _ m _ q' t' other second refused _ rest =>
    obtain ⟨rfl, rfl⟩ := refusalNext_unique next other
    obtain ⟨⟨completed, -⟩, -, log, -⟩ := refused
    have idle : (m.port q').phase = .idle := by rw [completed]
    refine .inr ⟨second, ?_, ?_⟩
    · rw [(queriedFirst_frame rest).2.2 q' (by rw [idle]; nofun), completed]
    · obtain ⟨records, grown⟩ := rest.logGrows
      exact ⟨records, by rw [grown, log]⟩

/-! ### What a fetch does at its completion, by the mark and the phase -/

section
variable {s : State} {p : Port} {x : PhysAddr} {i : Slot} {t : Transaction} {w : Word}

theorem fetchData_granted (found : s.fetchingAt x = some (i, .none)) (memory : (s.port p).phase = .inMemory t) :
    s.fetchData p x w = (s.setEntry i (.held (grantedEntry x p w t.lease))).finish p
      (.data (replyWord .granted p 0 (ticketOf w + 1) (payloadOf w))) := by
  simp [State.fetchData, found, memory, Phase.memoryTransaction]

theorem fetchData_fenced (found : s.fetchingAt x = some (i, .fenced)) (memory : (s.port p).phase = .inMemory t) :
    s.fetchData p x w = ((s.freeSlot i).logFault (transactionFault .fenced p t)).finish p t.request.direction.fault := by
  simp [State.fetchData, found, memory, Phase.memoryTransaction]

theorem fetchData_offline (found : s.fetchingAt x = some (i, .offline)) : s.fetchData p x w = s.freeSlot i := by
  simp [State.fetchData, found]

theorem fetchError_unmarked (found : s.fetchingAt x = some (i, .none)) (memory : (s.port p).phase = .inMemory t) :
    s.fetchError p x = ((s.freeSlot i).logFault (transactionFault .memory p t)).finish p t.request.direction.fault := by
  simp [State.fetchError, found, memory, Phase.memoryTransaction]

theorem fetchError_fenced (found : s.fetchingAt x = some (i, .fenced)) (memory : (s.port p).phase = .inMemory t) :
    s.fetchError p x = (((s.freeSlot i).logFault (transactionFault .memory p t)).logFault
      (transactionFault .fenced p t)).finish p t.request.direction.fault := by
  simp [State.fetchError, found, memory, Phase.memoryTransaction]

theorem fetchError_offline (found : s.fetchingAt x = some (i, .offline)) : s.fetchError p x = (s.freeSlot i).logFault
    { kind := .memory, port := some p, access := .read, logical := none, physical := some x, ticket := none } := by
  simp [State.fetchError, found]

end

/-- A fetch's completion, with an error or without; `w` is the word read. -/
def State.fetchEnd (s : State) (p : Port) (x : PhysAddr) (w : Word) (error : Bool) : State :=
  if error then s.fetchError p x else s.fetchData p x w

theorem fetchEnd_frame (s : State) (p : Port) (x : PhysAddr) (w : Word) (error : Bool) :
    { s.fetchEnd p x w error with ports := s.ports, table := s.table, log := s.log } = s := by
  unfold State.fetchEnd State.fetchError State.fetchData
  split <;> split <;> rfl

theorem fetchEnd_logGrows (s : State) (p : Port) (x : PhysAddr) (w : Word) (error : Bool) :
    LogGrows s (s.fetchEnd p x w error) := by
  unfold State.fetchEnd State.fetchError State.fetchData
  split
  · split
    · exact logGrows_append rfl
    · exact (logGrows_append (t := s.logFault _) rfl).trans (logGrows_append rfl)
    · exact logGrows_append rfl
    · exact logGrows_of_eq rfl
    · exact logGrows_of_eq rfl
  · split
    · exact logGrows_of_eq rfl
    · exact logGrows_append rfl
    · exact logGrows_of_eq rfl
    · exact logGrows_of_eq rfl
    · exact logGrows_of_eq rfl

/-- A port that is not IN-MEMORY is not told. -/
theorem fetchEnd_port {s : State} {q : Port} (out : ∀ v, (s.port q).phase ≠ .inMemory v) (p : Port) (x : PhysAddr) (w : Word)
    (error : Bool) : (s.fetchEnd p x w error).port q = s.port q := by
  have told : ∀ {u : State} {t r}, u.ports = s.ports → (s.port p).phase.memoryTransaction = some t →
      (u.finish p r).port q = s.port q := by
    intro u t r ports memory
    have other : q ≠ p := fun hq => out t (hq ▸ memoryTransaction_some memory)
    rw [port_finish_other _ _ _ _ other, port_eq_of_ports ports]
  unfold State.fetchEnd State.fetchError State.fetchData
  split
  · split
    next memory => exact told rfl memory
    next memory => exact told rfl memory
    · rfl
    · rfl
    · rfl
  · split
    next memory => exact told rfl memory
    next memory => exact told rfl memory
    · rfl
    · rfl
    · rfl

section
variable {s : State} {p : Port} {x : PhysAddr} {i : Slot} {mark : OrphanMark}

theorem fetchEnd_entry_other (found : s.fetchingAt x = some (i, mark)) {j : Slot} (hj : j ≠ i) (p : Port) (w : Word) (error : Bool) :
    (s.fetchEnd p x w error).entry j = s.entry j := by
  unfold State.fetchEnd State.fetchError State.fetchData
  rw [found]
  split <;> cases mark <;> cases (s.port p).phase.memoryTransaction <;> exact entry_setEntry_other _ _ _ _ hj

/-- The entry is freed by an error, and where it is marked. -/
theorem fetchEnd_freed (found : s.fetchingAt x = some (i, mark)) (p : Port) (w : Word) {error : Bool} (h : error = true ∨ mark ≠ .none) :
    (s.fetchEnd p x w error).entry i = .free := by
  have freed : (s.freeSlot i).entry i = .free := entry_setEntry_same ..
  unfold State.fetchEnd State.fetchError State.fetchData
  rw [found]
  split
  · cases mark <;> cases (s.port p).phase.memoryTransaction <;> exact freed
  next no_error =>
    cases mark with
    | none => exact absurd rfl (h.resolve_left no_error)
    | _ => cases (s.port p).phase.memoryTransaction <;> exact freed

end

/-- The row of a grant fetch's completion: the race, and then the fetch's end. -/
theorem exec_fetch_completion {s : State} {p : Port} {x : PhysAddr} {g : Bool} (op : s.memPort.operation = some (.ofPort p .grantFetch x g))
    (error : Bool) : ∃ e : State, QueriedFirst { s with memPort := { s.memPort with operation := none } } e ∧
      exec (.grantFetchCompletion error) s = .next ((e.fetchEnd p x (readWord s.bank x) error).endEvent s) := by
  refine ⟨(s.setOperation none).raceAtEntry (.ofPort p .grantFetch x g), raceAtEntry_queriedFirst (s := s.setOperation none) rfl rfl,
    congrArg (fun u : State => Host.Outcome.next (u.endEvent s)) ?_⟩
  rw [complete_port op, perform_read rfl]
  rfl

/-- What the end of a fetch finds in the state after the race: its entry at the word, the table as it was, and its port as it was
where that is not QUEUED. -/
theorem queriedFirst_found {s e : State} (queried : QueriedFirst { s with memPort := { s.memPort with operation := none } } e)
    (distinct : s.AddressesDistinct) {p : Port} {x : PhysAddr} {i : Slot} {mark : OrphanMark} (entry : s.entry i = .fetching x p mark) :
    e.fetchingAt x = some (i, mark) ∧ (∀ j, e.entry j = s.entry j) ∧
      ∀ {q v}, (s.port q).phase = .inMemory v → e.port q = s.port q := by
  obtain ⟨frame, -, ports⟩ := queriedFirst_frame queried
  have same : ∀ j, e.entry j = s.entry j := entry_eq_of_table (congrArg State.table frame :)
  refine ⟨fetchingAt_of_entry (fun j k => ?_) ((same i).trans entry), same, fun memory => ports _ ?_⟩
  · rw [same, same]
    exact distinct j k
  · change ∀ t, (s.port _).phase ≠ .queued t
    rw [memory]
    nofun

theorem transaction_lease {t : Transaction} {f : ClaimFields} (h : t.target = .claim f) : t.lease = f.lease := by
  simp [Transaction.lease, h]

/-- Settles O25: the end of the fetch after the race, by the mark. -/
theorem grantFetchCompletesByMark : Obligations.GrantFetchCompletesByMark := by
  intro s p x g i mark distinct op entry record idle Frame
  have frame : ∀ {e : State} (w : Word) (error : Bool), QueriedFirst idle e → Frame e (e.fetchEnd p x w error) := fun w error queried => by
    obtain ⟨found, same, -⟩ := queriedFirst_found queried distinct entry
    exact ⟨fun j hj => (fetchEnd_entry_other found hj p w error).trans (same j), fetchEnd_frame _ p x w error⟩
  refine ⟨?_, ?_⟩
  · intro w
    obtain ⟨e, queried, run⟩ := exec_fetch_completion op false
    obtain ⟨found, -, ports⟩ := queriedFirst_found queried distinct entry
    refine ⟨e, e.fetchData p x w, queried, run, frame w false queried, fun t f unmarked memory target => ?_, fun t fenced memory => ?_,
      fun offline => ?_⟩
    · rw [← ports memory] at memory
      rw [unmarked] at found
      rw [fetchData_granted found memory, transaction_lease target]
      exact ⟨entry_setEntry_same .., finish_completed rfl p _, rfl⟩
    · rw [← ports memory] at memory
      rw [fenced] at found
      rw [fetchData_fenced found memory]
      exact ⟨entry_setEntry_same .., finish_completed rfl p _, rfl⟩
    · rw [offline] at found
      rw [fetchData_offline found]
      exact ⟨entry_setEntry_same .., rfl, rfl⟩
  · obtain ⟨e, queried, run⟩ := exec_fetch_completion op true
    obtain ⟨found, -, ports⟩ := queriedFirst_found queried distinct entry
    refine ⟨e, e.fetchError p x, queried, run, frame (readWord s.bank x) true queried, fetchEnd_freed found p 0 (.inl rfl),
      fun t unmarked memory => ?_, fun t fenced memory => ?_, fun offline => ?_⟩
    · rw [← ports memory] at memory
      rw [unmarked] at found
      rw [fetchError_unmarked found memory]
      exact ⟨finish_completed rfl p _, rfl⟩
    · rw [← ports memory] at memory
      rw [fenced] at found
      rw [fetchError_fenced found memory]
      exact ⟨finish_completed rfl p _, rfl⟩
    · rw [offline] at found
      rw [fetchError_offline found]
      exact ⟨rfl, rfl⟩

/-! ### What a write-back does at its completion -/

/-- A write-back's completion at its entry, where an entry not regranted becomes what `outcome` says. -/
def State.settleWriteBack (s : State) (i : Slot) (outcome : RetiringEntry → Entry) : State :=
  match s.entry i with
  | .retiring r =>
    match r.writeBack with
    | some f => if f.regranted then s.requeue i r else s.setEntry i (outcome r)
    | none => s
  | .held h => s.setEntry i (.held { h with writeBack := none })
  | _ => s

theorem writeBackDone_eq (s : State) (i : Slot) : s.writeBackDone i = s.settleWriteBack i fun _ => .free := rfl

theorem writeBackError_eq (s : State) (i : Slot) (x : PhysAddr) (written : Ticket) : s.writeBackError i x written =
    (s.logFault { kind := .writeback, port := none, access := .write, logical := none, physical := some x
                  ticket := some written }).settleWriteBack i fun r => .quarantined r.address r.ticket r.payload := rfl

section
variable (s : State) (i : Slot) (outcome : RetiringEntry → Entry)

theorem settle_frame : { s.settleWriteBack i outcome with table := s.table, writeBackQueue := s.writeBackQueue } = s := by
  unfold State.settleWriteBack
  split
  · split
    · split <;> rfl
    · rfl
  · rfl
  · rfl

theorem settle_entry_other {j : Slot} (hj : j ≠ i) : (s.settleWriteBack i outcome).entry j = s.entry j := by
  unfold State.settleWriteBack
  split
  · split
    · split <;> exact entry_setEntry_other _ _ _ _ hj
    · rfl
  · exact entry_setEntry_other _ _ _ _ hj
  · rfl

variable {s i} {r : RetiringEntry} {b : InFlight} {h : HeldEntry}

theorem settle_requeued (entry : s.entry i = .retiring r) (flight : r.writeBack = some b) (regranted : b.regranted = true) :
    s.settleWriteBack i outcome = s.requeue i r := by
  simp [State.settleWriteBack, entry, flight, regranted]

theorem settle_ended (entry : s.entry i = .retiring r) (flight : r.writeBack = some b) (clear : b.regranted = false) :
    s.settleWriteBack i outcome = s.setEntry i (outcome r) := by
  simp [State.settleWriteBack, entry, flight, clear]

theorem settle_held (entry : s.entry i = .held h) :
    s.settleWriteBack i outcome = s.setEntry i (.held { h with writeBack := none }) := by
  simp [State.settleWriteBack, entry]

end

theorem settle_bank (s : State) (i : Slot) (outcome : RetiringEntry → Entry) : (s.settleWriteBack i outcome).bank = s.bank :=
  (congrArg State.bank (settle_frame s i outcome) :)

theorem settle_log (s : State) (i : Slot) (outcome : RetiringEntry → Entry) : (s.settleWriteBack i outcome).log = s.log :=
  (congrArg State.log (settle_frame s i outcome) :)

theorem requeue_entry (s : State) (i : Slot) (r : RetiringEntry) : (s.requeue i r).entry i = .retiring { r with writeBack := none } :=
  entry_setEntry_same ..

/-- A write-back's completion, with an error or without: the bank's part, and then the entry. -/
def State.writeBackEnd (s : State) (i : Slot) (x : PhysAddr) (d : Word) (error : Bool) : State :=
  if error then (s.perform (.ofWriteBack i x d) true).writeBackError i x (ticketOf d)
  else (s.perform (.ofWriteBack i x d) false).writeBackDone i

section
variable (s : State) (i : Slot) (x : PhysAddr) (d : Word)

theorem writeBackEnd_done : s.writeBackEnd i x d false =
    (s.setBank (writeWord s.bank x allLanes d)).settleWriteBack i fun _ => .free := rfl

theorem writeBackEnd_error : s.writeBackEnd i x d true =
    ((s.setBank (writeWord s.bank x allLanes (Config.failedWriteWord s.freeIndex))).useFree.logFault
      { kind := .writeback, port := none, access := .write, logical := none, physical := some x
        ticket := some (ticketOf d) }).settleWriteBack i fun r => .quarantined r.address r.ticket r.payload := rfl

/-- The entry after a write-back that was not regranted. -/
def RetiringEntry.ended (r : RetiringEntry) (error : Bool) : Entry :=
  if error then .quarantined r.address r.ticket r.payload else .free

/-- Both completions are the settling of the entry in a state with the same table and queue. -/
theorem writeBackEnd_settles (error : Bool) : ∃ u : State, s.writeBackEnd i x d error = u.settleWriteBack i (·.ended error) ∧
    { u with bank := s.bank, log := s.log, freeIndex := s.freeIndex } = s := by
  cases error with
  | false => exact ⟨_, writeBackEnd_done .., rfl⟩
  | true => exact ⟨_, writeBackEnd_error .., rfl⟩

theorem writeBackEnd_written (sound : bankWf s.bank = true) : BankWritten s.bank (s.writeBackEnd i x d false).bank x allLanes d := by
  rw [writeBackEnd_done, settle_bank]
  exact writeWord_written sound x allLanes d

theorem writeBackEnd_sameBut (error : Bool) : BankSameBut s.bank (s.writeBackEnd i x d error).bank x := by
  cases error with
  | false =>
    rw [writeBackEnd_done, settle_bank]
    exact fun k hk => writeWord_same_but s.bank x allLanes d k hk
  | true =>
    rw [writeBackEnd_error, settle_bank]
    exact fun k hk => writeWord_same_but s.bank x allLanes _ k hk

theorem writeBackEnd_entry_other (error : Bool) {j : Slot} (hj : j ≠ i) : (s.writeBackEnd i x d error).entry j = s.entry j := by
  obtain ⟨u, settles, frame⟩ := writeBackEnd_settles s i x d error
  rw [settles, settle_entry_other _ _ _ hj]
  exact entry_eq_of_table (congrArg State.table frame :) j

theorem writeBackEnd_frame (error : Bool) : { s.writeBackEnd i x d error with
    table := s.table, writeBackQueue := s.writeBackQueue, bank := s.bank, log := s.log, freeIndex := s.freeIndex } = s := by
  obtain ⟨u, settles, frame⟩ := writeBackEnd_settles s i x d error
  rw [settles]
  exact (congrArg (fun v : State => { v with table := s.table, writeBackQueue := s.writeBackQueue, bank := s.bank, log := s.log
                                             freeIndex := s.freeIndex }) (settle_frame u i (·.ended error))).trans
    (congrArg (fun v : State => { v with table := s.table, writeBackQueue := s.writeBackQueue }) frame)

variable {s i} {r : RetiringEntry} {b : InFlight} {h : HeldEntry} (error : Bool)

theorem writeBackEnd_regranted (entry : s.entry i = .retiring r) (flight : r.writeBack = some b) (regranted : b.regranted = true) :
    (s.writeBackEnd i x d error).entry i = .retiring { r with writeBack := none } ∧
      (s.writeBackEnd i x d error).writeBackQueue = s.writeBackQueue ++ [i] := by
  obtain ⟨u, settles, frame⟩ := writeBackEnd_settles s i x d error
  have same : u.entry i = s.entry i := entry_eq_of_table (congrArg State.table frame :) i
  rw [settles, settle_requeued _ (same.trans entry) flight regranted]
  exact ⟨requeue_entry .., congrArg (· ++ [i]) (congrArg State.writeBackQueue frame :)⟩

theorem writeBackEnd_ended (entry : s.entry i = .retiring r) (flight : r.writeBack = some b) (clear : b.regranted = false) :
    (s.writeBackEnd i x d error).entry i = r.ended error ∧
      (s.writeBackEnd i x d error).writeBackQueue = s.writeBackQueue := by
  obtain ⟨u, settles, frame⟩ := writeBackEnd_settles s i x d error
  have same : u.entry i = s.entry i := entry_eq_of_table (congrArg State.table frame :) i
  rw [settles, settle_ended _ (same.trans entry) flight clear]
  exact ⟨entry_setEntry_same .., (congrArg State.writeBackQueue frame :)⟩

theorem writeBackEnd_held (entry : s.entry i = .held h) :
    (s.writeBackEnd i x d error).entry i = .held { h with writeBack := none } ∧
      (s.writeBackEnd i x d error).writeBackQueue = s.writeBackQueue := by
  obtain ⟨u, settles, frame⟩ := writeBackEnd_settles s i x d error
  have same : u.entry i = s.entry i := entry_eq_of_table (congrArg State.table frame :) i
  rw [settles, settle_held _ (same.trans entry)]
  exact ⟨entry_setEntry_same .., (congrArg State.writeBackQueue frame :)⟩

end

/-- The row of a write-back's completion: the race, and then the write-back's end. -/
theorem exec_writeBack_completion {s : State} {i : Slot} {x : PhysAddr} {d : Word}
    (op : s.memPort.operation = some (.ofWriteBack i x d)) (error : Bool) :
    ∃ e : State, QueriedFirst { s with memPort := { s.memPort with operation := none } } e ∧
      exec (.writeBackCompletion error) s = .next ((e.writeBackEnd i x d error).endEvent s) := by
  refine ⟨(s.setOperation none).raceAtEntry (.ofWriteBack i x d), raceAtEntry_queriedFirst (s := s.setOperation none) rfl rfl,
    congrArg (fun u : State => Host.Outcome.next (u.endEvent s)) ?_⟩
  rw [complete_writeBack op]
  cases error <;> rfl

/-- The race leaves the table, the write-back queue and the bank. -/
theorem race_keeps {s e : State} (queried : QueriedFirst { s with memPort := { s.memPort with operation := none } } e) :
    (∀ j, e.entry j = s.entry j) ∧ e.writeBackQueue = s.writeBackQueue ∧ e.bank = s.bank := by
  have frame := (queriedFirst_frame queried).1
  exact ⟨entry_eq_of_table (congrArg State.table frame :), (congrArg State.writeBackQueue frame :), (congrArg State.bank frame :)⟩

/-- Settles O26: the write-back's end after the race, by the entry's state and its regranted mark. -/
theorem writeBackCompletes : Obligations.WriteBackCompletes := by
  intro s i x d op entry idle Stays
  have stays : ∀ {e : State} error, QueriedFirst idle e → Stays (e.writeBackEnd i x d error) := fun error queried => by
    obtain ⟨same, queue, -⟩ := race_keeps queried
    exact ⟨fun r b retiring flight regranted => queue ▸ writeBackEnd_regranted x d error ((same i).trans retiring) flight regranted,
      fun h held => queue ▸ writeBackEnd_held x d error ((same i).trans held)⟩
  have ends : ∀ {e : State} error, QueriedFirst idle e → ∀ r b, s.entry i = .retiring r → r.writeBack = some b →
      b.regranted = false → (e.writeBackEnd i x d error).entry i = r.ended error ∧
        (e.writeBackEnd i x d error).writeBackQueue = s.writeBackQueue := fun error queried r b retiring flight clear => by
    obtain ⟨same, queue, -⟩ := race_keeps queried
    rw [← queue]
    exact writeBackEnd_ended x d error ((same i).trans retiring) flight clear
  refine ⟨fun sound => ?_, ?_⟩
  · obtain ⟨e, queried, run⟩ := exec_writeBack_completion op false
    obtain ⟨same, queue, bank⟩ := race_keeps queried
    refine ⟨e, _, queried, run, fun j hj => (writeBackEnd_entry_other e i x d false hj).trans (same j), ?_, ?_, stays false queried,
      ends false queried⟩
    · rw [← bank]
      exact writeBackEnd_written e i x d (bank ▸ sound)
    · rw [writeBackEnd_done]
      exact congrArg (fun u : State => { u with bank := e.bank }) (settle_frame (e.setBank (writeWord e.bank x allLanes d)) i _)
  · obtain ⟨e, queried, run⟩ := exec_writeBack_completion op true
    obtain ⟨same, queue, bank⟩ := race_keeps queried
    refine ⟨e, _, queried, run, fun j hj => (writeBackEnd_entry_other e i x d true hj).trans (same j), ?_, ?_, ?_, stays true queried,
      ends true queried⟩
    · rw [← bank]
      exact writeBackEnd_sameBut e i x d true
    · rw [writeBackEnd_error, settle_log]
      rfl
    · exact writeBackEnd_frame e i x d true

/-! ### The race with a plain write granted next (R106, log 22) -/

theorem writeBackEnd_logGrows (s : State) (i : Slot) (x : PhysAddr) (d : Word) (error : Bool) :
    LogGrows s (s.writeBackEnd i x d error) := by
  cases error with
  | false =>
    rw [writeBackEnd_done]
    exact logGrows_of_eq (settle_log ..)
  | true =>
    rw [writeBackEnd_error]
    exact logGrows_append (settle_log ..)

/-- What the statement on the two orders asks of the state after the race and the completion, but for the entry. -/
theorem raced_completion {s e u : State} {q : Port} {t : Transaction} (next : s.RefusalNext q t)
    (queried : QueriedFirst { s with memPort := { s.memPort with operation := none } } e)
    (told : (∀ v, (e.port q).phase ≠ .inMemory v) → u.port q = e.port q) (grows : LogGrows e u) (pointer : u.memPort = e.memPort) :
    u.memPort.operation = none ∧
    (Config.order s.freeIndex % 2 = 0 → u.port q = s.port q ∧ u.memPort.pointer = s.memPort.pointer) ∧
    (Config.order s.freeIndex % 2 ≠ 0 →
      u.port q = { s.port q with phase := .idle, replies := (s.port q).replies ++ [t.request.direction.fault] } ∧
      ∃ records : List FaultRecord, u.log = records.foldl FaultLog.append
        (s.log.append { kind := .claimword, port := some q, access := t.request.direction.field
                        logical := some t.request.logical, physical := some t.physical, ticket := none })) := by
  have queued := next.2.2.1
  have next_idle : State.RefusalNext { s with memPort := { s.memPort with operation := none } } q t := next
  have no_operation := (queriedFirst_frame queried).2.1
  refine ⟨by rw [pointer, no_operation], fun first => ?_, fun second => ?_⟩
  · rcases queried.decided next_idle with ⟨-, rfl⟩ | ⟨other, -⟩
    · refine ⟨told ?_, by rw [pointer]⟩
      change ∀ v, (s.port q).phase ≠ .inMemory v
      rw [queued]
      nofun
    · exact absurd first other
  · rcases queried.decided next_idle with ⟨other, -⟩ | ⟨-, refused, records, log⟩
    · exact absurd other second
    · obtain ⟨more, grown⟩ := grows
      refine ⟨?_, records ++ more, by rw [grown, log, List.foldl_append]⟩
      rw [told (by rw [refused]; nofun), refused]
      rfl

theorem race_frame {s e : State} (queried : QueriedFirst { s with memPort := { s.memPort with operation := none } } e) :
    { e with ports := s.ports, memPort := s.memPort, log := s.log, freeIndex := s.freeIndex } = s :=
  congrArg (fun v : State => { v with memPort := s.memPort }) (queriedFirst_frame queried).1

/-- Settles O27: the race is decided by its first free value, and the completion's end comes after it. -/
theorem completionAndNextWriteEitherOrder : Obligations.CompletionAndNextWriteEitherOrder := by
  intro s c error i x q t distinct next occasion
  rcases occasion with ⟨p, g, mark, rfl, op, entry⟩ | ⟨d, rfl, op, flight⟩
  · obtain ⟨e, queried, run⟩ := exec_fetch_completion op error
    obtain ⟨found, same, ports⟩ := queriedFirst_found queried distinct entry
    have frame := fetchEnd_frame e p x (readWord s.bank x) error
    have memPort : (e.fetchEnd p x (readWord s.bank x) error).memPort = e.memPort := (congrArg State.memPort frame :)
    have bank : (e.fetchEnd p x (readWord s.bank x) error).bank = e.bank := (congrArg State.bank frame :)
    obtain ⟨no_operation, first, second⟩ := raced_completion next queried (fun out => fetchEnd_port out p x _ error)
      (fetchEnd_logGrows e p x _ error) memPort
    refine ⟨_, run, fun j hj => (fetchEnd_entry_other found hj p _ error).trans (same j), no_operation, ?_, first, second,
      fun p' mark' entry' => ?_, fun d write => ?_⟩
    · exact (congrArg (fun v : State => { v with ports := s.ports, table := s.table, writeBackQueue := s.writeBackQueue
                                                 memPort := s.memPort, log := s.log, bank := s.bank, freeIndex := s.freeIndex })
        frame).trans (congrArg (fun v : State => { v with table := s.table, writeBackQueue := s.writeBackQueue, bank := s.bank })
          (race_frame queried))
    · rw [entry] at entry'
      obtain ⟨-, rfl, rfl⟩ := Entry.fetching.inj entry'
      refine ⟨bank.trans (race_keeps queried).2.2, fetchEnd_freed found p _, fun no_error unmarked ⟨v, memory⟩ => ?_⟩
      subst no_error unmarked
      rw [← ports memory] at memory
      refine ⟨grantedEntry x p (readWord s.bank x) v.lease, ?_, rfl, rfl⟩
      rw [State.fetchEnd, if_neg Bool.false_ne_true, fetchData_granted found memory]
      exact entry_setEntry_same ..
    · rw [op] at write
      cases write
  · obtain ⟨e, queried, run⟩ := exec_writeBack_completion op error
    obtain ⟨same, queue, bank⟩ := race_keeps queried
    have frame := writeBackEnd_frame e i x d error
    have memPort : (e.writeBackEnd i x d error).memPort = e.memPort := (congrArg State.memPort frame :)
    have ports : (e.writeBackEnd i x d error).ports = e.ports := (congrArg State.ports frame :)
    obtain ⟨no_operation, first, second⟩ := raced_completion next queried (fun _ => port_eq_of_ports ports q)
      (writeBackEnd_logGrows e i x d error) memPort
    refine ⟨_, run, fun j hj => (writeBackEnd_entry_other e i x d error hj).trans (same j), no_operation, ?_, first, second,
      fun p mark fetching => ?_, fun d' write => ?_⟩
    · exact (congrArg (fun v : State => { v with ports := s.ports, table := s.table, writeBackQueue := s.writeBackQueue
                                                 memPort := s.memPort, log := s.log, bank := s.bank, freeIndex := s.freeIndex })
        frame).trans (congrArg (fun v : State => { v with table := s.table, writeBackQueue := s.writeBackQueue, bank := s.bank })
          (race_frame queried))
    · rw [fetching] at flight
      exact absurd rfl flight
    · rw [op] at write
      obtain rfl : d = d' := by injection write with write; injection write
      rw [← bank]
      refine ⟨writeBackEnd_sameBut e i x d error, fun no_error sound => ?_, fun h held => ?_, fun r b retiring in_flight => ?_⟩
      · subst no_error
        exact writeBackEnd_written e i x d (bank ▸ sound)
      · exact (writeBackEnd_held x d error ((same i).trans held)).1
      · cases regranted : b.regranted with
        | true => exact (writeBackEnd_regranted x d error ((same i).trans retiring) in_flight regranted).1
        | false => exact (writeBackEnd_ended x d error ((same i).trans retiring) in_flight regranted).1

end Sys2Proof.Machine
end

section
/-! The statements on ticks and on what they end (R57, R60, R61, R65, R67, R68, R71). -/

namespace Sys2Proof.Machine

/-! ### Counted records and entries -/

@[simp] theorem Waiter.counted_port (w : Waiter) : w.counted.port = w.port := by
  unfold Waiter.counted
  split <;> rfl

@[simp] theorem Waiter.counted_lease (w : Waiter) : w.counted.lease = w.lease := by
  unfold Waiter.counted
  split <;> rfl

@[simp] theorem Waiter.counted_waits (w : Waiter) : w.counted.waits = w.waits := by
  unfold Waiter.counted
  split
  next mode => simp [Waiter.waits, mode]
  · rfl

theorem sub_one_eq_zero {n : Ticks} : n - 1 = 0 ↔ n = 1 := by
  constructor <;> intro h <;> bv_omega

/-- A count stands at 0 after a tick where it stood at 1 before. -/
@[simp] theorem Waiter.counted_waitAt (w : Waiter) : w.counted.waitAt 0 = w.waitAt 1 := by
  obtain ⟨p, mode, lease⟩ := w
  rcases mode with _ | ⟨limit, _ | n⟩
  · rfl
  · rfl
  · simp only [Waiter.counted, Waiter.waitAt, sub_one_eq_zero]

@[simp] theorem HeldEntry.counted_leaseAt (h : HeldEntry) : h.counted.leaseAt 0 = h.leaseAt 1 := by
  unfold HeldEntry.counted HeldEntry.leaseAt
  cases h.lease with
  | none => rfl
  | some l => simp only [Option.map_some, Option.any_some, sub_one_eq_zero]

/-- Of a record that the claim passes to, the port and the lease length count. -/
theorem afterLoss_counted (h : HeldEntry) (w : Waiter) (rest : List Waiter) :
    HeldEntry.afterLoss { h with waiters := w.counted :: rest } = HeldEntry.afterLoss { h with waiters := w :: rest } := by
  simp [HeldEntry.afterLoss]

/-! ### What the expiries leave of a list -/

/-- `M` is a list after a tick some of whose waits have ended: counted, and of the records of `L` those are gone whose waits end. -/
def Left (L M : List Waiter) : Prop :=
  ∃ keep : Waiter → Bool, M = (L.filter keep).map Waiter.counted ∧ ∀ w ∈ L, keep w = false → w.waitAt 1 = true

theorem Left.all (L : List Waiter) : Left L (L.map Waiter.counted) :=
  ⟨fun _ => true, by simp, nofun⟩

theorem Left.mem {L M : List Waiter} (h : Left L M) {v : Waiter} (hv : v ∈ M) : ∃ w ∈ L, v = w.counted := by
  obtain ⟨keep, rfl, -⟩ := h
  obtain ⟨w, hw, rfl⟩ := List.mem_map.1 hv
  exact ⟨w, List.mem_of_mem_filter hw, rfl⟩

/-- One more wait ends, where no port has two records. -/
theorem Left.without {L M : List Waiter} (h : Left L M) (one : (L.map Waiter.port).Nodup) {p : Port}
    (ended : ∃ v ∈ M, v.port = p ∧ v.waitAt 0 = true) : Left L (without M p) := by
  obtain ⟨v, hv, port, at_zero⟩ := ended
  obtain ⟨u, hu, rfl⟩ := h.mem hv
  rw [Waiter.counted_port] at port
  rw [Waiter.counted_waitAt] at at_zero
  obtain ⟨keep, rfl, gone⟩ := h
  refine ⟨fun w => decide (w.port ≠ p) && keep w, ?_, fun w hw dropped => ?_⟩
  · rw [Machine.without, List.filter_map, List.filter_filter]
    congr 1
    refine List.filter_congr fun w _ => ?_
    simp
  · rcases Bool.and_eq_false_iff.1 dropped with same | kept
    · have same : w.port = p := by simpa using same
      rwa [List.inj_on_of_nodup_map one hw hu (same.trans port.symm)]
    · exact gone w hw kept

/-- No wait is left to end. -/
theorem Left.remaining {L M : List Waiter} (h : Left L M) (none_left : ∀ v ∈ M, v.waitAt 0 = false) : M = remaining L := by
  obtain ⟨keep, rfl, gone⟩ := h
  unfold Machine.remaining
  congr 1
  refine List.filter_congr fun w hw => ?_
  cases kept : keep w with
  | false => rw [gone w hw kept]; rfl
  | true =>
    have still := none_left w.counted (List.mem_map_of_mem (List.mem_filter.2 ⟨hw, kept⟩))
    rw [Waiter.counted_waitAt] at still
    rw [still]
    rfl

theorem Left.nil {L : List Waiter} (h : Left L []) : ∀ w ∈ L, w.waitAt 1 = true := by
  obtain ⟨keep, none_kept, gone⟩ := h
  intro w hw
  refine gone w hw (Bool.eq_false_iff.2 fun kept => ?_)
  have found := List.mem_filter.2 ⟨hw, kept⟩
  rw [List.map_eq_nil_iff.1 none_kept.symm] at found
  cases found

theorem Left.cons {L M : List Waiter} {v : Waiter} (h : Left L (v :: M)) :
    ∃ before w behind, L = before ++ w :: behind ∧ (∀ u ∈ before, u.waitAt 1 = true) ∧ v = w.counted ∧ Left behind M := by
  obtain ⟨keep, kept, gone⟩ := h
  obtain ⟨w, rest, found, rfl, rfl⟩ := List.map_eq_cons_iff.1 kept.symm
  obtain ⟨before, behind, rfl, dropped, -, hrest⟩ := List.filter_eq_cons_iff.1 found
  refine ⟨before, w, behind, rfl, fun u hu => gone u (List.mem_append_left _ hu) (Bool.eq_false_iff.2 (dropped u hu)), rfl,
    keep, by rw [hrest], fun u hu => gone u (List.mem_append_right _ (List.mem_cons_of_mem _ hu))⟩

/-! ### What the expiries make of an entry -/

/-- What a HELD entry may be between the expiries of one tick: counted, with what is left of its list; or lost, to a record before
which every wait has ended, or to nobody. -/
inductive HeldEntry.Ticking (h : HeldEntry) : Entry → Prop where
  | counting {M} : Left h.waiters M → h.Ticking (.held { h.counted with waiters := M })
  | retired : h.leaseAt 1 = true → (∀ w ∈ h.waiters, w.waitAt 1 = true) → h.Ticking (HeldEntry.afterLoss { h with waiters := [] })
  | handed {before w behind M} : h.leaseAt 1 = true → h.waiters = before ++ w :: behind →
      (∀ v ∈ before, v.waitAt 1 = true) → Left behind M → h.Ticking (HeldEntry.afterLoss { h with waiters := w :: M })

theorem HeldEntry.Ticking.start (h : HeldEntry) : h.Ticking (Entry.held h).counted := .counting (Left.all h.waiters)

/-- What an expiry makes of the entry in its slot. -/
def Expiry.onEntry (x : Expiry) (h : HeldEntry) : Entry :=
  match x with
  | .lease _ => if h.leaseAt 0 then h.afterLoss else .held h
  | .wait _ p => if h.waiters.any fun w => w.port = p && w.waitAt 0 then .held { h with waiters := without h.waiters p } else .held h

theorem onEntry_lease (i : Slot) (h : HeldEntry) :
    (Expiry.lease i).onEntry h = if h.leaseAt 0 then h.afterLoss else .held h := rfl

theorem onEntry_wait (i : Slot) (p : Port) (h : HeldEntry) : (Expiry.wait i p).onEntry h =
    if h.waiters.any fun w => w.port = p && w.waitAt 0 then .held { h with waiters := without h.waiters p } else .held h := rfl

/-- The slot of an expiry. -/
def Expiry.slot : Expiry → Slot
  | .lease i => i
  | .wait i _ => i

theorem expire_entry_held {s : State} {x : Expiry} {h : HeldEntry} (he : s.entry x.slot = .held h) :
    (s.expire x).entry x.slot = x.onEntry h := by
  cases x with
  | lease i =>
    have he : s.entry i = .held h := he
    simp only [State.expire, State.expireLease, Expiry.slot, Expiry.onEntry, he]
    split
    · exact lose_entry ..
    · exact he
  | wait i p =>
    have he : s.entry i = .held h := he
    simp only [State.expire, State.expireWait, Expiry.slot, Expiry.onEntry, he]
    split
    · exact entry_setEntry_same ..
    · exact he

theorem expire_entry_not_held {s : State} {x : Expiry} (he : ∀ h, s.entry x.slot ≠ .held h) : s.expire x = s := by
  cases x with
  | lease i =>
    simp only [State.expire, State.expireLease]
    split
    next h held => exact absurd held (he h)
    · rfl
  | wait i p =>
    simp only [State.expire, State.expireWait]
    split
    next h held => exact absurd held (he h)
    · rfl

theorem expire_entry_other {s : State} {x : Expiry} {j : Slot} (hj : j ≠ x.slot) : (s.expire x).entry j = s.entry j := by
  cases x with
  | lease i =>
    simp only [State.expire, State.expireLease]
    split
    · split
      · exact lose_entry_other _ _ _ _ _ hj
      · rfl
    · rfl
  | wait i p =>
    simp only [State.expire, State.expireWait]
    split
    · split
      · exact entry_setEntry_other _ _ _ _ hj
      · rfl
    · rfl

/-- An expiry at the entry keeps it between the expiries of the tick, where no port has two records on the list. -/
theorem HeldEntry.Ticking.onEntry {h g : HeldEntry} {e : Entry} (t : h.Ticking e) (he : e = .held g)
    (one : (h.waiters.map Waiter.port).Nodup) (x : Expiry) : h.Ticking (x.onEntry g) := by
  cases t with
  | @counting M left =>
    obtain rfl := Entry.held.inj he
    cases x with
    | lease i =>
      have lease : HeldEntry.leaseAt { h.counted with waiters := M } 0 = h.leaseAt 1 := h.counted_leaseAt
      rw [onEntry_lease]
      split
      next ends =>
        rw [lease] at ends
        cases M with
        | nil => exact .retired ends left.nil
        | cons v M =>
          obtain ⟨before, w, behind, waiters, ended, rfl, left_behind⟩ := left.cons
          have handed := HeldEntry.Ticking.handed (h := h) ends waiters ended left_behind
          rw [← afterLoss_counted] at handed
          exact handed
      · exact .counting left
    | wait i p =>
      rw [onEntry_wait]
      split
      next ends =>
        obtain ⟨v, hv, found⟩ := List.any_eq_true.1 ends
        rw [Bool.and_eq_true, decide_eq_true_eq] at found
        exact .counting (left.without one ⟨v, hv, found⟩)
      · exact .counting left
  | retired _ _ => cases he
  | @handed before w behind M ends waiters ended left =>
    have behind_one : (behind.map Waiter.port).Nodup := by
      rw [waiters, List.map_append, List.map_cons] at one
      exact one.of_append_right.of_cons
    have fresh : g.leaseAt 0 = false := by
      cases he
      exact leaseOf_leaseAt w.lease
    have list : g.waiters = M := by
      cases he
      rfl
    have shortened (q : Port) : Entry.held { g with waiters := without M q } =
        HeldEntry.afterLoss { h with waiters := w :: without M q } := by
      cases he
      rfl
    have stays : h.Ticking (.held g) := he ▸ .handed ends waiters ended left
    cases x with
    | lease i =>
      rw [onEntry_lease, fresh, if_neg Bool.false_ne_true]
      exact stays
    | wait i q =>
      rw [onEntry_wait]
      split
      next some_ends =>
        obtain ⟨v, hv, found⟩ := List.any_eq_true.1 some_ends
        rw [Bool.and_eq_true, decide_eq_true_eq] at found
        rw [list] at hv ⊢
        rw [shortened]
        exact .handed ends waiters ended (left.without behind_one ⟨v, hv, found⟩)
      · exact stays

/-- With no count left at 0 the entry is as the tick leaves it. -/
theorem HeldEntry.Ticking.ticked {h : HeldEntry} {e : Entry} {i : Slot} (t : h.Ticking e) (none_left : e.expiries i = []) :
    h.TickedTo e := by
  have nothing : ∀ {g : HeldEntry}, e = .held g → g.leaseAt 0 = false ∧ ∀ v ∈ g.waiters, v.waitAt 0 = false := fun {g} he => by
    rw [he, Entry.expiries, List.append_eq_nil_iff, List.map_eq_nil_iff, List.filter_eq_nil_iff] at none_left
    obtain ⟨lease, waits⟩ := none_left
    refine ⟨Bool.eq_false_iff.2 fun ends => ?_, fun v hv => Bool.eq_false_iff.2 (waits v hv)⟩
    rw [if_pos ends] at lease
    cases lease
  cases t with
  | @counting M left =>
    obtain ⟨lease, waits⟩ := nothing rfl
    have still : h.leaseAt 1 = false := h.counted_leaseAt.symm.trans lease
    rw [left.remaining waits]
    exact ⟨fun _ => rfl, fun ends => absurd (still.symm.trans ends) Bool.false_ne_true⟩
  | retired ends all_ended =>
    exact ⟨fun still => absurd (still.symm.trans ends) Bool.false_ne_true, fun _ => .inl ⟨all_ended, rfl⟩⟩
  | @handed before w behind M ends waiters ended left =>
    obtain ⟨-, waits⟩ := nothing rfl
    rw [left.remaining waits]
    exact ⟨fun still => absurd (still.symm.trans ends) Bool.false_ne_true, fun _ => .inr ⟨before, w, behind, waiters, ended, rfl⟩⟩

/-! ### The whole tick -/

/-- Where a state stands between the expiries of the tick that began in `s`. -/
def Midtick (s u : State) : Prop :=
  (∀ i, (∀ h, s.entry i ≠ .held h) → u.entry i = s.entry i) ∧ ∀ i h, s.entry i = .held h → h.Ticking (u.entry i)

theorem midtick_ticked (s : State) : Midtick s (s.forSlots State.tickAt) := by
  refine ⟨fun i not_held => ?_, fun i h held => ?_⟩
  · rw [ticked_entry]
    cases he : s.entry i with
    | held h => exact absurd he (not_held h)
    | _ => rfl
  · rw [ticked_entry, held]
    exact .start h

theorem Midtick.expire {s u : State} (m : Midtick s u) (lists : s.ListsSound) (x : Expiry) : Midtick s (u.expire x) := by
  obtain ⟨others, held⟩ := m
  refine ⟨fun i not_held => ?_, fun i h he => ?_⟩
  · by_cases hi : i = x.slot
    · subst hi
      rw [expire_entry_not_held fun h hu => not_held h ((others _ not_held).symm.trans hu)]
      exact others _ not_held
    · rw [expire_entry_other hi]
      exact others i not_held
  · by_cases hi : i = x.slot
    · subst hi
      have ticking := held _ h he
      cases hu : u.entry x.slot with
      | held g =>
        rw [expire_entry_held hu]
        have sound := lists x.slot
        rw [he] at sound
        exact ticking.onEntry hu (List.Nodup.of_cons (of_decide_eq_true sound)) x
      | _ =>
        rw [expire_entry_not_held (by rw [hu]; nofun)]
        exact ticking
    · rw [expire_entry_other hi]
      exact held i h he

theorem midtick_takeTick {s : State} (lists : s.ListsSound) (first : Option Expiry) : Midtick s (s.takeTick first) := by
  unfold State.takeTick
  have ticked := midtick_ticked s
  generalize s.forSlots State.tickAt = u at ticked ⊢
  refine expireAll_induct (Midtick s) (fun _ x m => m.expire lists x) (fun _ m => m) _ _ ?_
  cases first with
  | none => exact ticked
  | some x => exact ticked.expire lists x

theorem takeTick_frame (s : State) (first : Option Expiry) :
    { s.takeTick first with ports := s.ports, table := s.table, writeBackQueue := s.writeBackQueue, notices := s.notices
                            log := s.log, freeIndex := s.freeIndex } = s := by
  have expired : ∀ u x, { State.expire u x with ports := s.ports, table := s.table, writeBackQueue := s.writeBackQueue
                                                notices := s.notices, log := s.log, freeIndex := s.freeIndex } =
      { u with ports := s.ports, table := s.table, writeBackQueue := s.writeBackQueue, notices := s.notices
               log := s.log, freeIndex := s.freeIndex } := fun u x =>
    congrArg (fun v : State => { v with ports := s.ports, table := s.table, writeBackQueue := s.writeBackQueue
                                        notices := s.notices, log := s.log, freeIndex := s.freeIndex }) (expire_frame u x)
  have ticked := congrArg (fun v : State => { v with ports := s.ports, writeBackQueue := s.writeBackQueue, notices := s.notices
                                                     log := s.log, freeIndex := s.freeIndex }) (ticked_frame s)
  unfold State.takeTick
  generalize s.forSlots State.tickAt = u at ticked ⊢
  refine expireAll_induct (fun v : State => { v with ports := s.ports, table := s.table, writeBackQueue := s.writeBackQueue
                                                     notices := s.notices, log := s.log, freeIndex := s.freeIndex } = s)
    (fun v x hv => (expired v x).trans hv) (fun _ hv => hv) _ _ ?_
  cases first with
  | none => exact ticked
  | some x => exact (expired u x).trans ticked

theorem expiries_of_none {s : State} (h : s.expiries = []) (i : Slot) : (s.entry i).expiries i = [] :=
  List.flatMap_eq_nil_iff.1 h i (mem_slots i)

/-! ### Which counts a tick ends -/

theorem flatMap_at {α : Type} {f : Slot → List α} (i : Slot) (h : ∀ j, j ≠ i → f j = []) : slots.flatMap f = f i := by
  have at_most : ∀ l : List Slot, l.Nodup → l.flatMap f = if i ∈ l then f i else [] := fun l nodup => by
    induction l with
    | nil => rfl
    | cons j l ih =>
      obtain ⟨fresh, rest⟩ := List.nodup_cons.1 nodup
      rw [List.flatMap_cons, ih rest]
      by_cases hj : j = i
      · subst hj
        simp [fresh]
      · simp [h j hj, Ne.symm hj]
  rw [at_most slots (List.nodup_finRange 64), if_pos (mem_slots i)]

theorem expiries_at {s : State} (i : Slot) (h : ∀ j, j ≠ i → (s.entry j).expiries j = []) : s.expiries = (s.entry i).expiries i :=
  flatMap_at i h

theorem counted_expiries (h : HeldEntry) (i : Slot) : (Entry.held h).counted.expiries i =
    (if h.leaseAt 1 then [.lease i] else []) ++ (h.waiters.filter fun w => w.waitAt 1).map fun w => .wait i w.port := by
  rw [Entry.counted, Entry.expiries, HeldEntry.counted_leaseAt]
  have waits : (fun w : Waiter => w.waitAt 0) ∘ Waiter.counted = fun w => w.waitAt 1 := funext Waiter.counted_waitAt
  have names : (fun w : Waiter => Expiry.wait i w.port) ∘ Waiter.counted = fun w => .wait i w.port :=
    funext fun w => congrArg (Expiry.wait i) w.counted_port
  simp only [HeldEntry.counted, List.filter_map, List.map_map, waits, names]

/-- Where a tick ends at most counts of one entry, the expiries are those of that entry. -/
theorem ticked_expiries {s : State} {i : Slot} {lease : Bool} {p : Port} {wait : Bool} (h : s.EndsAtMost i lease p wait) :
    (s.forSlots State.tickAt).expiries = ((s.entry i).counted).expiries i := by
  rw [expiries_at i, ticked_entry]
  intro j hj
  rw [ticked_entry]
  cases he : s.entry j with
  | held g =>
    obtain ⟨at_lease, at_wait⟩ := h j g he
    have lease_stands : ¬ g.leaseAt 1 = true := fun ends => hj (at_lease ends).2
    have waits_stand : g.waiters.filter (fun w => w.waitAt 1) = [] :=
      List.filter_eq_nil_iff.2 fun w hw ends => hj (at_wait w hw ends).2.1
    rw [counted_expiries, if_neg lease_stands, waits_stand]
    rfl
  | _ => rfl

theorem expireAll_singleton {s : State} {x : Expiry} (h : s.expiries = [x]) (n : Nat) :
    State.expireAll (n + 1) s = State.expireAll n (s.expire x) := by
  rw [State.expireAll, h]
  rfl

/-- One count that ends is one expiry. -/
theorem takeTick_single {s : State} {x : Expiry} (h : (s.forSlots State.tickAt).expiries = [x]) :
    s.takeTick none = (s.forSlots State.tickAt).expire x := by
  simp only [State.takeTick, Option.elim, h, List.length_singleton]
  exact expireAll_singleton h 0

theorem takeTick_first {s : State} {x : Expiry} (h : ((s.forSlots State.tickAt).expire x).expiries = []) :
    s.takeTick (some x) = (s.forSlots State.tickAt).expire x := by
  simp only [State.takeTick, Option.elim, h]
  rfl

theorem takeTick_first_then {s : State} {x y : Expiry} (h : ((s.forSlots State.tickAt).expire x).expiries = [y]) :
    s.takeTick (some x) = ((s.forSlots State.tickAt).expire x).expire y := by
  simp only [State.takeTick, Option.elim, h, List.length_singleton]
  exact expireAll_singleton h 0

/-- An expiry that is the only one leaves none. -/
theorem expire_single {s : State} {x : Expiry} (h : s.expiries = [x]) : (s.expire x).expiries = [] := by
  have fewer := expire_lt (s := s) (e := x) (h ▸ List.mem_singleton_self x)
  rw [h, List.length_singleton] at fewer
  exact List.length_eq_zero_iff.1 (Nat.lt_one_iff.1 fewer)

theorem takeTick_first_single {s : State} {x : Expiry} (h : (s.forSlots State.tickAt).expiries = [x]) :
    s.takeTick (some x) = (s.forSlots State.tickAt).expire x := takeTick_first (expire_single h)

theorem ticks_iff {s : State} : s.ticks = true ↔ s.TickNext := by
  rw [State.ticks, Bool.and_eq_true, decide_eq_true_eq, Bool.not_eq_true']

theorem tbclk_ticks {s : State} (next : s.TickNext) : s.tbclk = ((s.setDivider s.divisor).takeTick none).endEvent s := by
  rw [State.tbclk, if_pos (ticks_iff.2 next), State.tick]

/-- A tick that ends no count is the decrement alone. -/
theorem takeTick_quiet {s : State} (none_ends : s.EndsAtMost 0 false 0 false) : s.takeTick none = s.forSlots State.tickAt := by
  have no_expiry : (s.forSlots State.tickAt).expiries = [] := by
    rw [ticked_expiries none_ends]
    cases he : s.entry 0 with
    | held h =>
      obtain ⟨lease, wait⟩ := none_ends 0 h he
      rw [counted_expiries, if_neg fun ends => Bool.false_ne_true (lease ends).1,
        List.filter_eq_nil_iff.2 fun w hw ends => Bool.false_ne_true (wait w hw ends).1]
      rfl
    | _ => rfl
  simp only [State.takeTick, Option.elim, no_expiry]
  rfl

/-- Settles O28: the divider counts, and the expiries of a tick leave every entry as R61 allows. -/
theorem tbclkPeriodsMakeTicks : Obligations.TbclkPeriodsMakeTicks := by
  intro s c hc
  have run : exec c s = .next s.tbclk := by rcases hc with rfl | rfl <;> rfl
  refine ⟨fun reset => ?_, fun out still => ?_, fun next lists => ?_⟩
  · rw [run, State.tbclk, if_neg fun ticks => by simp [(ticks_iff.1 ticks).1] at reset, if_pos reset]
  · rw [run, State.tbclk, if_neg fun ticks => still (ticks_iff.1 ticks).2, if_neg (by simp [out])]
    rfl
  · rw [run, tbclk_ticks next]
    have frame := takeTick_frame (s.setDivider s.divisor) none
    have sound : (s.setDivider s.divisor).ListsSound := lists
    have midtick := midtick_takeTick sound none
    have none_left := takeTick_expiries (s.setDivider s.divisor) none
    have quiet : s.EndsAtMost 0 false 0 false →
        { (s.setDivider s.divisor).takeTick none with table := s.table, divider := s.divider } = s := fun none_ends => by
      have quiet : (s.setDivider s.divisor).EndsAtMost 0 false 0 false := none_ends
      have ticked := ticked_frame (s.setDivider s.divisor)
      rw [takeTick_quiet quiet]
      generalize (s.setDivider s.divisor).forSlots State.tickAt = u at ticked ⊢
      exact congrArg (fun u : State => { u with divider := s.divider }) ticked
    generalize (s.setDivider s.divisor).takeTick none = t at frame midtick none_left quiet ⊢
    obtain ⟨others, held⟩ := midtick
    exact ⟨t, rfl, (congrArg State.divider frame :), congrArg (fun u : State => { u with divider := s.divider }) frame, others,
      fun i h he => (held i h he).ticked (expiries_of_none none_left i), quiet⟩

end Sys2Proof.Machine
end

section
/-! The statements on the expiry of leases and of waits (R57, R60, R61, R71). -/

namespace Sys2Proof.Machine

/-! ### A loss of which the former holder is told -/

/-- The former holder of `h` was sent a notice of a kind that names the new holder, or itself, with the ticket now current (R57),
and the new holder, if there is one, was told (R56); no other port was. -/
def FormerTold (s t : State) (kind : NoticeKind) (h : HeldEntry) : Prop :=
  t.notice h.holder = (if (s.port h.holder).resetAsserted then s.notice h.holder
    else (s.notice h.holder).arrive { kind := kind, other := h.nextHolder, ticketBits := h.nextTicket.extractLsb' 0 4
                                      address := h.address }) ∧
  (h.waiters = [] → t.ports = s.ports ∧ ∀ q, q ≠ h.holder → t.notice q = s.notice q) ∧
  ∀ w rest, h.waiters = w :: rest → NewHolderTold s t h w rest ∧
    (∀ q, q ≠ w.port → t.port q = s.port q) ∧ ∀ q, q ≠ w.port → q ≠ h.holder → t.notice q = s.notice q

/-- The kind of notice that a cause sends to the former holder. -/
def LossCause.Tells (cause : LossCause) (kind : NoticeKind) : Prop :=
  (cause = .expiry ∧ kind = .expired) ∨ (cause = .revoke ∧ kind = .revoked)

section
variable {s : State} {cause : LossCause} {kind : NoticeKind} {i : Slot} {h : HeldEntry}

/-- Beside the notices of a release, the former holder is sent its own. -/
theorem lose_notice_former (tells : cause.Tells kind) (q : Port) : (s.lose cause i h).notice q =
    if q = h.holder ∧ (s.port q).resetAsserted = false then
      ((s.lose .release i h).notice q).arrive { kind := kind, other := h.nextHolder, ticketBits := ticketBits h.nextTicket
                                                address := h.address }
    else (s.lose .release i h).notice q := by
  rw [lose_notice, lose_notice]
  rcases tells with ⟨rfl, rfl⟩ | ⟨rfl, rfl⟩ <;> simp only [ite_self]

theorem lose_release_notice_same {q : Port} (other : ∀ w rest, h.waiters = w :: rest → q ≠ w.port) :
    (s.lose .release i h).notice q = s.notice q := by
  cases hw : h.waiters with
  | nil =>
    rw [lose_release_nil hw]
    exact (congrArg (fun u : State => u.notice q) (retire_frame s i h) :)
  | cons w rest => rw [lose_release_notice s i hw, if_neg fun is_head => other w rest hw is_head.1]

theorem lose_ports_nil (hw : h.waiters = []) : (s.lose cause i h).ports = s.ports := by
  have units : ∀ q, (s.lose cause i h).port q = s.port q := fun q => by rw [lose_port, hw]
  exact Vector.ext fun n hn => units ⟨n, hn⟩

theorem lose_formerTold (tells : cause.Tells kind) (sound : (h.holder :: h.waiters.map Waiter.port).Nodup) :
    FormerTold s (s.lose cause i h) kind h := by
  have not_head : ∀ w rest, h.waiters = w :: rest → h.holder ≠ w.port := fun w rest hw same => by
    rw [hw, same] at sound
    exact (List.nodup_cons.1 sound).1 (List.mem_cons_self)
  refine ⟨?_, fun hw => ⟨lose_ports_nil hw, fun q hq => ?_⟩, fun w rest hw => ⟨?_, fun q hq => ?_, fun q hq hqh => ?_⟩⟩
  · rw [lose_notice_former tells, lose_release_notice_same not_head]
    cases (s.port h.holder).resetAsserted <;> simp [ticketBits]
  · rw [lose_notice_former tells, if_neg fun former => hq former.1,
      lose_release_notice_same fun w rest cons => by rw [hw] at cons; cases cons]
  · have told := lose_release_told (s := s) (i := i) hw
    have port : (s.lose cause i h).port w.port = (s.lose .release i h).port w.port := by
      rw [lose_port_cons s _ i hw, lose_port_cons s _ i hw]
    have notice : (s.lose cause i h).notice w.port = (s.lose .release i h).notice w.port := by
      rw [lose_notice_former tells, if_neg fun former => not_head w rest hw former.1.symm]
    rw [NewHolderTold] at told ⊢
    rw [port, notice]
    exact told
  · rw [lose_port_cons s _ i hw, if_neg fun head => hq head.1]
  · rw [lose_notice_former tells, if_neg fun former => hqh former.1,
      lose_release_notice_same fun v rest' cons => by rw [hw] at cons; injection cons with hv; exact hv ▸ hq]

end

theorem counted_nextHolder (h : HeldEntry) : h.counted.nextHolder = h.nextHolder := by
  unfold HeldEntry.nextHolder HeldEntry.counted
  cases h.waiters <;> simp

theorem counted_nextTicket (h : HeldEntry) : h.counted.nextTicket = h.nextTicket := by
  unfold HeldEntry.nextTicket HeldEntry.counted
  cases h.waiters <;> simp

/-- The decrement before the loss changes nothing of what is told. -/
theorem FormerTold.of_counted {s u t : State} {kind : NoticeKind} {h : HeldEntry} (told : FormerTold u t kind h.counted)
    (ports : u.ports = s.ports) (notices : u.notices = s.notices) : FormerTold s t kind h := by
  have port := port_eq_of_ports ports
  have notice := notice_eq_of_notices notices
  obtain ⟨former, nobody, head⟩ := told
  refine ⟨?_, fun hw => ?_, fun w rest hw => ?_⟩
  · rw [counted_nextHolder, counted_nextTicket, port, notice] at former
    exact former
  · obtain ⟨same, others⟩ := nobody (by simp [HeldEntry.counted, hw])
    exact ⟨same.trans ports, fun q hq => (others q hq).trans (notice q)⟩
  · obtain ⟨new, ports_same, notices_same⟩ := head w.counted (rest.map Waiter.counted) (by simp [HeldEntry.counted, hw])
    rw [Waiter.counted_port] at ports_same notices_same
    refine ⟨?_, fun q hq => (ports_same q hq).trans (port q), fun q hq hqh => (notices_same q hq hqh).trans (notice q)⟩
    simp only [NewHolderTold, Waiter.counted_port, Waiter.counted_waits, List.length_map, port, notice] at new ⊢
    exact new

/-! ### The tick before its expiries -/

/-- The state of a tick before its expiries: the divider count reloaded, every running count one less. -/
@[irreducible] def State.decremented (s : State) : State := (s.setDivider s.divisor).forSlots State.tickAt

theorem decremented_entry (s : State) (j : Slot) : s.decremented.entry j = (s.entry j).counted := by
  unfold State.decremented
  exact ticked_entry _ j

theorem decremented_frame (s : State) : { s.decremented with table := s.table, divider := s.divider } = s := by
  have frame := ticked_frame (s.setDivider s.divisor)
  unfold State.decremented
  generalize (s.setDivider s.divisor).forSlots State.tickAt = u at frame ⊢
  exact congrArg (fun u : State => { u with divider := s.divider }) frame

theorem decremented_divider (s : State) : s.decremented.divider = s.divisor := by
  have frame := ticked_frame (s.setDivider s.divisor)
  unfold State.decremented
  generalize (s.setDivider s.divisor).forSlots State.tickAt = u at frame ⊢
  exact (congrArg State.divider frame :)

theorem decremented_ports (s : State) : s.decremented.ports = s.ports := by
  have frame := decremented_frame s
  generalize s.decremented = u at frame ⊢
  exact (congrArg State.ports frame :)

theorem decremented_notices (s : State) : s.decremented.notices = s.notices := by
  have frame := decremented_frame s
  generalize s.decremented = u at frame ⊢
  exact (congrArg State.notices frame :)

theorem decremented_log (s : State) : s.decremented.log = s.log := by
  have frame := decremented_frame s
  generalize s.decremented = u at frame ⊢
  exact (congrArg State.log frame :)

theorem decremented_queue (s : State) : s.decremented.writeBackQueue = s.writeBackQueue := by
  have frame := decremented_frame s
  generalize s.decremented = u at frame ⊢
  exact (congrArg State.writeBackQueue frame :)

theorem decremented_expiries {s : State} {i : Slot} {lease : Bool} {p : Port} {wait : Bool} {h : HeldEntry}
    (most : s.EndsAtMost i lease p wait) (he : s.entry i = .held h) : s.decremented.expiries =
      (if h.leaseAt 1 then [.lease i] else []) ++ (h.waiters.filter fun w => w.waitAt 1).map fun w => .wait i w.port := by
  have same : (s.setDivider s.divisor).EndsAtMost i lease p wait := most
  rw [State.decremented, ticked_expiries same, setDivider_entry, he, counted_expiries]

/-- The three rows of a period that ends one count take that expiry. -/
theorem exec_single_expiry {s : State} {c : Instr} {x : Expiry} (next : s.TickNext)
    (row : exec c s = .next (s.tick (some x)) ∨ c = .tick ∨ c = .tbclkPeriod) (single : s.decremented.expiries = [x]) :
    exec c s = .next ((s.decremented.expire x).endEvent s) := by
  rw [State.decremented] at single ⊢
  generalize periods : s.setDivider s.divisor = u at single ⊢
  have some_first : s.tick (some x) = ((u.forSlots State.tickAt).expire x).endEvent s := by
    rw [State.tick, periods, takeTick_first_single single]
  have none_first : s.tbclk = ((u.forSlots State.tickAt).expire x).endEvent s := by
    rw [tbclk_ticks next, periods, takeTick_single single]
  rcases row with row | rfl | rfl
  · rw [row, some_first]
  · exact congrArg Host.Outcome.next none_first
  · exact congrArg Host.Outcome.next none_first

theorem exec_leaseExpiry {s : State} {i : Slot} {h : HeldEntry} (next : s.TickNext) (he : s.entry i = .held h)
    (ends : h.leaseAt 1 = true) : exec (.leaseExpiry i) s = .next (s.tick (some (.lease i))) :=
  congrArg Host.Outcome.next (if_pos (by
    rw [ticks_iff.2 next, State.leaseEnds, he]
    exact ends))

theorem counted_queuesAtLoss (h : HeldEntry) : h.counted.queuesAtLoss = h.queuesAtLoss := by
  unfold HeldEntry.queuesAtLoss HeldEntry.counted
  simp

/-- Settles O29: the one expiry of the tick is a loss of which the former holder is told. -/
theorem leaseExpiryPassesClaimOn : Obligations.LeaseExpiryPassesClaimOn := by
  refine ⟨fun s c i h hc next lists he ends most => ?_, fun s i none_ends => ?_⟩
  · have no_wait : h.waiters.filter (fun w => w.waitAt 1) = [] :=
      List.filter_eq_nil_iff.2 fun w hw at_one => Bool.false_ne_true ((most i h he).2 w hw at_one).1
    have single : s.decremented.expiries = [.lease i] := by
      rw [decremented_expiries most he, if_pos ends, no_wait]
      rfl
    have entry : s.decremented.entry i = .held h.counted := by rw [decremented_entry, he]; rfl
    have lost : s.decremented.expire (.lease i) = s.decremented.lose .expiry i h.counted :=
      expireLease_held entry (h.counted_leaseAt.trans ends)
    have sound : (h.counted.holder :: h.counted.waiters.map Waiter.port).Nodup := by
      have listed := lists i
      rw [he] at listed
      exact (counted_ports h.waiters).symm ▸ of_decide_eq_true listed
    obtain ⟨former, nobody, head⟩ := (lose_formerTold (s := s.decremented) (i := i) (.inl ⟨rfl, rfl⟩) sound).of_counted
      (decremented_ports s) (decremented_notices s)
    have run := exec_single_expiry (c := c) next (by
      rcases hc with rfl | rfl | rfl
      · exact .inl (exec_leaseExpiry next he ends)
      · exact .inr (.inl rfl)
      · exact .inr (.inr rfl)) single
    rw [lost] at run
    refine ⟨_, run, lose_entry .., fun j hj => ?_, ?_, ?_, ?_, former, nobody, head, ?_⟩
    · rw [lose_entry_other _ _ _ _ _ hj, decremented_entry]
    · rw [lose_divider, decremented_divider]
    · rw [lose_queue, decremented_queue, counted_queuesAtLoss]
    · rw [lose_log, if_pos rfl, decremented_log]
      rfl
    · have frame := decremented_frame s
      have loss := lose_frame s.decremented .expiry i h.counted
      generalize s.decremented.lose .expiry i h.counted = t at loss ⊢
      generalize s.decremented = u at frame loss
      exact (congrArg (fun v : State => { v with ports := s.ports, table := s.table, writeBackQueue := s.writeBackQueue
                                                 notices := s.notices, divider := s.divider, log := s.log }) loss).trans
        (congrArg (fun v : State => { v with ports := s.ports, writeBackQueue := s.writeBackQueue, notices := s.notices
                                             log := s.log }) frame)
  · refine congrArg Host.Outcome.next (if_neg fun due => ?_)
    rw [Bool.and_eq_true, ticks_iff] at due
    rcases none_ends with no_tick | stands
    · exact no_tick due.1
    · cases he : s.entry i with
      | held h =>
        rw [State.leaseEnds, he] at due
        exact Bool.false_ne_true ((stands h he).symm.trans due.2)
      | _ => simp [State.leaseEnds, he] at due

end Sys2Proof.Machine
end

section
/-! The statement on the expiry of waits (R60, R61). -/

namespace Sys2Proof.Machine

/-! ### Lists on which one wait ends -/

/-- Of a list on which no port has two records, the waits that end are one record's. -/
theorem ended_eq_singleton {l : List Waiter} (one : (l.map Waiter.port).Nodup) {w : Waiter} (hw : w ∈ l) (ends : w.waitAt 1 = true)
    (alone : ∀ v ∈ l, v.waitAt 1 = true → v.port = w.port) : l.filter (fun v => v.waitAt 1) = [w] := by
  refine List.perm_singleton.1 ((List.perm_ext_iff_of_nodup (one.of_map.filter _) (List.nodup_singleton w)).2 fun v => ?_)
  rw [List.mem_filter, List.mem_singleton]
  constructor
  · rintro ⟨hv, ended⟩
    exact List.inj_on_of_nodup_map one hv hw (alone v hv ended)
  · rintro rfl
    exact ⟨hw, ends⟩

theorem without_counted (l : List Waiter) (p : Port) :
    without (l.map Waiter.counted) p = (l.filter fun v => v.port ≠ p).map Waiter.counted := by
  rw [without, List.filter_map]
  congr 1
  exact List.filter_congr fun v _ => by simp

/-- Without its head's port a list on which no port has two records is its tail. -/
theorem without_head {w : Waiter} {rest : List Waiter} (one : ((w :: rest).map Waiter.port).Nodup) :
    without (w :: rest) w.port = rest := by
  rw [List.map_cons, List.nodup_cons] at one
  rw [without, List.filter_cons_of_neg (by simp)]
  exact List.filter_eq_self.2 fun v hv => decide_eq_true fun same => one.1 (same ▸ List.mem_map_of_mem hv)

/-- The wait of a record that has run out ends its port's stalled read (R60). -/
theorem expireWait_held {s : State} {i : Slot} {h : HeldEntry} {v : Waiter} (he : s.entry i = .held h) (hv : v ∈ h.waiters)
    (ended : v.waitAt 0 = true) : s.expire (.wait i v.port) =
      (s.setEntry i (.held { h with waiters := without h.waiters v.port })).finish v.port
        (.data (replyWord .timeout h.holder 0 h.ticket 0)) := by
  have found : (h.waiters.any fun w => w.port = v.port && w.waitAt 0) = true :=
    List.any_eq_true.2 ⟨v, hv, by rw [ended]; simp⟩
  simp only [State.expire, State.expireWait, he, found, if_true]

/-- After a handoff the new lease has not run out; only waits behind the new holder may have. -/
theorem afterLoss_expiries {h : HeldEntry} {w : Waiter} {rest : List Waiter} (hw : h.waiters = w :: rest) (i : Slot) :
    h.afterLoss.expiries i = (rest.filter fun v => v.waitAt 0).map fun v => .wait i v.port := by
  have after : h.afterLoss = .held (h.handTo w rest) := by
    simp only [HeldEntry.afterLoss, hw]
    rfl
  have fresh : (h.handTo w rest).leaseAt 0 = false := leaseOf_leaseAt w.lease
  rw [after, Entry.expiries, fresh, if_neg Bool.false_ne_true]
  rfl

/-! ### The row of a wait's expiry -/

theorem waitEnds_eq_some {s : State} {p : Port} {i : Slot} {h : HeldEntry} {w : Waiter} {lease : Bool}
    (most : s.EndsAtMost i lease p true) (he : s.entry i = .held h) (hw : w ∈ h.waiters) (port : w.port = p)
    (ends : w.waitAt 1 = true) : s.waitEnds p = some i := by
  refine find_slot_unique _ i ?_ fun j hj => ?_
  · rw [he]
    exact List.any_eq_true.2 ⟨w, hw, by rw [ends, port]; simp⟩
  · cases hj' : s.entry j with
    | held g =>
      rw [hj'] at hj
      obtain ⟨v, hv, found⟩ := List.any_eq_true.1 hj
      rw [Bool.and_eq_true] at found
      exact ((most j g hj').2 v hv found.2).2.1
    | _ =>
      rw [hj'] at hj
      cases hj

theorem exec_waitExpiry {s : State} {p : Port} {i : Slot} (next : s.TickNext) (ends : s.waitEnds p = some i) :
    exec (.waitExpiry p) s = .next (s.tick (some (.wait i p))) := by
  change execWaitExpiry p s = _
  rw [execWaitExpiry, ends]
  exact congrArg Host.Outcome.next (if_pos (ticks_iff.2 next))

/-- The expiry that a row takes first, where no other is left. -/
theorem tick_first {s : State} {x : Expiry} (last : (s.decremented.expire x).expiries = []) :
    s.tick (some x) = (s.decremented.expire x).endEvent s := by
  rw [State.decremented] at last ⊢
  generalize periods : s.setDivider s.divisor = u at last ⊢
  rw [State.tick, periods, takeTick_first last]

/-- The expiry that a row takes first, where one other is left. -/
theorem tick_first_then {s : State} {x y : Expiry} (left : (s.decremented.expire x).expiries = [y]) :
    s.tick (some x) = ((s.decremented.expire x).expire y).endEvent s := by
  rw [State.decremented] at left ⊢
  generalize periods : s.setDivider s.divisor = u at left ⊢
  rw [State.tick, periods, takeTick_first_then left]

/-- Where a tick ends at most counts of one entry, an expiry at that entry leaves expiries of that entry alone. -/
theorem expired_expiries {s : State} {i : Slot} {lease : Bool} {p : Port} {wait : Bool} (most : s.EndsAtMost i lease p wait)
    {x : Expiry} (slot : x.slot = i) :
    (s.decremented.expire x).expiries = ((s.decremented.expire x).entry i).expiries i := by
  refine expiries_at i fun j hj => ?_
  rw [expire_entry_other (slot ▸ hj), decremented_entry]
  cases he : s.entry j with
  | held g =>
    obtain ⟨at_lease, at_wait⟩ := most j g he
    rw [counted_expiries, if_neg fun ends => hj (at_lease ends).2,
      List.filter_eq_nil_iff.2 fun w hw ends => hj (at_wait w hw ends).2.1]
    rfl
  | _ => rfl

/-! ### The statement's parts -/

theorem ports_nodup {s : State} (lists : s.ListsSound) {i : Slot} {h : HeldEntry} (he : s.entry i = .held h) :
    (h.holder :: h.waiters.map Waiter.port).Nodup := by
  have listed := lists i
  rw [he] at listed
  exact of_decide_eq_true listed

/-- One wait ends: its read completes TIMEOUT. -/
theorem wait_times_out {s : State} {c : Instr} {p : Port} {i : Slot} {h : HeldEntry} {w : Waiter}
    (hc : c = .waitExpiry p ∨ c = .tick ∨ c = .tbclkPeriod) (next : s.TickNext) (lists : s.ListsSound) (he : s.entry i = .held h)
    (hw : w ∈ h.waiters) (port : w.port = p) (ends : w.waitAt 1 = true) (most : s.EndsAtMost i false p true) :
    ∃ t : State, exec c s = .next (t.endEvent s) ∧
      t.entry i = .held { h.counted with waiters := (h.waiters.filter fun v => v.port ≠ p).map Waiter.counted } ∧
      (∀ j, j ≠ i → t.entry j = (s.entry j).counted) ∧ t.divider = s.divisor ∧
      Completed s t p (.data (replyWord .timeout h.holder 0 h.ticket 0)) ∧
      { t with ports := s.ports, table := s.table, divider := s.divider } = s := by
  subst port
  have ended : h.waiters.filter (fun w => w.waitAt 1) = [w] :=
    ended_eq_singleton (List.nodup_cons.1 (ports_nodup lists he)).2 hw ends fun v hv at_one => ((most i h he).2 v hv at_one).2.2
  have single : s.decremented.expiries = [.wait i w.port] := by
    rw [decremented_expiries most he, if_neg fun at_one => Bool.false_ne_true ((most i h he).1 at_one).1, ended]
    rfl
  have entry : s.decremented.entry i = .held h.counted := by rw [decremented_entry, he]; rfl
  have expired := expireWait_held (v := w.counted) entry (List.mem_map_of_mem hw) (w.counted_waitAt.trans ends)
  have waiters : without h.counted.waiters w.port = (h.waiters.filter fun v => v.port ≠ w.port).map Waiter.counted :=
    without_counted ..
  have run := exec_single_expiry (c := c) next (by
    rcases hc with rfl | rfl | rfl
    · exact .inl (exec_waitExpiry next (waitEnds_eq_some most he hw rfl ends))
    · exact .inr (.inl rfl)
    · exact .inr (.inr rfl)) single
  rw [Waiter.counted_port, waiters] at expired
  rw [expired] at run
  refine ⟨_, run, entry_setEntry_same .., fun j hj => ?_, decremented_divider s, finish_completed (decremented_ports s) w.port _, ?_⟩
  · rw [finish_entry, entry_setEntry_other _ _ _ _ hj, decremented_entry]
  · exact congrArg (fun u : State => { u with ports := s.ports }) (decremented_frame s)

/-- No wait behind the head's ends. -/
theorem behind_stands {s : State} {i : Slot} {h : HeldEntry} {w : Waiter} {rest : List Waiter} (lists : s.ListsSound)
    (he : s.entry i = .held h) (head : h.waiters = w :: rest) (most : s.EndsAtMost i true w.port true) :
    rest.filter (fun v => v.waitAt 1) = [] := by
  have one := (List.nodup_cons.1 (ports_nodup lists he)).2
  rw [head, List.map_cons] at one
  refine List.filter_eq_nil_iff.2 fun v hv at_one => (List.nodup_cons.1 one).1 ?_
  rw [← ((most i h he).2 v (head ▸ List.mem_cons_of_mem w hv) at_one).2.2]
  exact List.mem_map_of_mem hv

section
variable {s : State} {i : Slot} {h : HeldEntry} {w : Waiter} {rest : List Waiter}
  (next : s.TickNext) (lists : s.ListsSound) (he : s.entry i = .held h) (lease : h.leaseAt 1 = true) (head : h.waiters = w :: rest)
  (ends : w.waitAt 1 = true) (most : s.EndsAtMost i true w.port true)
include next lists he lease head ends most

/-- The lease first: the head is granted the claim (R61). -/
theorem lease_first : ∃ t : State, exec (.leaseExpiry i) s = .next (t.endEvent s) ∧ t.entry i = h.counted.afterLoss ∧
    t.port w.port = { s.port w.port with
      phase := .idle
      replies := (s.port w.port).replies ++
        [.data (replyWord .granted w.port rest.length (h.ticket + 1) h.payload)] } := by
  have entry : s.decremented.entry i = .held h.counted := by rw [decremented_entry, he]; rfl
  have lost : s.decremented.expire (.lease i) = s.decremented.lose .expiry i h.counted :=
    expireLease_held entry (h.counted_leaseAt.trans lease)
  have waiters : h.counted.waiters = w.counted :: rest.map Waiter.counted := by rw [HeldEntry.counted, head, List.map_cons]
  have last : (s.decremented.expire (.lease i)).expiries = [] := by
    rw [expired_expiries most rfl, lost, lose_entry, afterLoss_expiries waiters, List.filter_map,
      show (fun v : Waiter => v.waitAt 0) ∘ Waiter.counted = fun v => v.waitAt 1 from funext Waiter.counted_waitAt,
      behind_stands lists he head most]
    rfl
  have run := exec_leaseExpiry next he lease
  rw [tick_first last, lost] at run
  refine ⟨_, run, lose_entry .., ?_⟩
  rw [lose_port_cons _ _ _ waiters, Waiter.counted_port, Waiter.counted_waits, if_pos ⟨rfl, waits_of_waitAt ends⟩,
    port_eq_of_ports (decremented_ports s), List.length_map]
  rfl

/-- The wait first: the read of the head times out, and the claim passes to the record behind (R61). -/
theorem wait_first : ∃ t : State, exec (.waitExpiry w.port) s = .next (t.endEvent s) ∧
    t.entry i = HeldEntry.afterLoss { h with waiters := rest.map Waiter.counted } ∧
    t.port w.port = { s.port w.port with
      phase := .idle
      replies := (s.port w.port).replies ++ [.data (replyWord .timeout h.holder 0 h.ticket 0)] } := by
  have one : ((w :: rest).map Waiter.port).Nodup := head ▸ (List.nodup_cons.1 (ports_nodup lists he)).2
  have entry : s.decremented.entry i = .held h.counted := by rw [decremented_entry, he]; rfl
  have waiters : h.counted.waiters = w.counted :: rest.map Waiter.counted := by rw [HeldEntry.counted, head, List.map_cons]
  have behind : without h.counted.waiters w.port = rest.map Waiter.counted := by
    have counted_one : ((w.counted :: rest.map Waiter.counted).map Waiter.port).Nodup := by
      rw [← List.map_cons, counted_ports]
      exact one
    rw [waiters, ← Waiter.counted_port]
    exact without_head counted_one
  have expired := expireWait_held (v := w.counted) entry (waiters ▸ List.mem_cons_self) (w.counted_waitAt.trans ends)
  rw [Waiter.counted_port, behind] at expired
  have after : (s.decremented.expire (.wait i w.port)).entry i = .held { h.counted with waiters := rest.map Waiter.counted } := by
    rw [expired]
    exact entry_setEntry_same ..
  have at_zero : HeldEntry.leaseAt { h.counted with waiters := rest.map Waiter.counted } 0 = true := h.counted_leaseAt.trans lease
  have left : (s.decremented.expire (.wait i w.port)).expiries = [.lease i] := by
    rw [expired_expiries most rfl, after, Entry.expiries, if_pos at_zero, List.filter_map,
      show (fun v : Waiter => v.waitAt 0) ∘ Waiter.counted = fun v => v.waitAt 1 from funext Waiter.counted_waitAt,
      behind_stands lists he head most]
    rfl
  have lost := expireLease_held after at_zero
  have run := exec_waitExpiry next (waitEnds_eq_some most he (head ▸ List.mem_cons_self) rfl ends)
  rw [tick_first_then left] at run
  refine ⟨_, run, ?_, ?_⟩
  · exact (congrArg (fun u : State => u.entry i) lost).trans (lose_entry ..)
  · have timed_out : (s.decremented.expire (.wait i w.port)).port w.port = { s.port w.port with
        phase := .idle
        replies := (s.port w.port).replies ++ [.data (replyWord .timeout h.holder 0 h.ticket 0)] } := by
      rw [expired]
      exact (finish_completed (decremented_ports s) w.port _).1
    refine (congrArg (fun u : State => u.port w.port) lost).trans (Eq.trans ?_ timed_out)
    rw [lose_port]
    cases rest with
    | nil => rfl
    | cons v behind =>
      refine if_neg fun told => (List.nodup_cons.1 one).1 ?_
      rw [told.1, Waiter.counted_port]
      exact List.mem_cons_self

end

/-- Settles O30: one wait that ends, and a lease that ends with it, in both orders. -/
theorem waitExpiryTimesOut : Obligations.WaitExpiryTimesOut := by
  refine ⟨fun s c p i h w hc next lists he hw port ends most => wait_times_out hc next lists he hw port ends most,
    fun s i h w rest next lists he lease head ends most => ⟨lease_first next lists he lease head ends most,
      wait_first next lists he lease head ends most⟩, fun s p none_ends => ?_⟩
  change execWaitExpiry p s = _
  rw [execWaitExpiry]
  split
  next i found =>
    rcases none_ends with no_tick | stands
    · exact congrArg Host.Outcome.next (if_neg fun ticks => no_tick (ticks_iff.1 ticks))
    · obtain ⟨w, hw, ended⟩ := List.any_eq_true.1 (List.find?_some (p := fun i =>
        (s.entry i).waiters.any fun w => w.port = p && w.waitAt 1) found)
      rw [Bool.and_eq_true, decide_eq_true_eq] at ended
      cases he : s.entry i with
      | held h =>
        rw [he] at hw
        exact absurd ((stands i h he w hw ended.1).symm.trans ended.2) Bool.false_ne_true
      | _ =>
        rw [he] at hw
        cases hw
  · rfl

end Sys2Proof.Machine
end

section
/-! The statements on what a port's reset ends, and on the order in which the claims that one event takes are handed on (R56, R58,
R127, R128, R131, R132). -/

namespace Sys2Proof.Machine

/-! ### What the loss of one claim tells a port -/

/-- The HANDOFF that the loss of an entry by `p` sends to `q` (R56). -/
def Entry.handoffTo (e : Entry) (p q : Port) : Option Notice :=
  match e.heir p with
  | some (h, w, _) =>
    if w.port = q && !w.waits then
      some { kind := .handoff, other := p, ticketBits := (h.ticket + 1).extractLsb' 0 4, address := h.address }
    else none
  | none => none

/-- The GRANTED completion that the loss of an entry by `p` gives to `q` (R56). -/
def Entry.grantTo (e : Entry) (p q : Port) : Option Reply :=
  match e.heir p with
  | some (h, w, rest) =>
    if w.port = q && w.waits then some (.data (replyWord .granted q rest.length (h.ticket + 1) h.payload)) else none
  | none => none

theorem handoffsTo_eq (s : State) (p q : Port) : s.handoffsTo p q = slots.filterMap fun i => (s.entry i).handoffTo p q := rfl

theorem grantsTo_eq (s : State) (p q : Port) : s.grantsTo p q = slots.filterMap fun i => (s.entry i).grantTo p q := rfl

/-- A cause that tells the former holder nothing and writes no record. -/
def LossCause.silent (cause : LossCause) : Prop := cause = .offline ∨ cause = .fenceRevoke

/-- A port's unit after completions that ended its stalls. -/
def PortUnit.granted (u : PortUnit) (r : Reply) : PortUnit := { u with phase := .idle, replies := u.replies ++ [r] }

theorem foldl_granted (u : PortUnit) (l : List Reply) :
    l.foldl PortUnit.granted u = if l = [] then u else { u with phase := .idle, replies := u.replies ++ l } := by
  induction l generalizing u with
  | nil => rfl
  | cons r l ih =>
    rw [List.foldl_cons, ih, if_neg (List.cons_ne_nil r l)]
    split
    next none_left => rw [none_left]; rfl
    · simp [PortUnit.granted]

/-- The list of an entry without a record of `p`. -/
theorem heir_held {h : HeldEntry} {p : Port} (unlisted : enrolled h.waiters p = false) : (Entry.held h).heir p =
    if h.holder = p then
      match h.waiters with
      | [] => none
      | w :: rest => some (h, w, rest)
    else none := by
  have left : h.waiters.filter (fun w => w.port ≠ p) = h.waiters :=
    List.filter_eq_self.2 fun w hw => decide_eq_true (enrolled_eq_false.1 unlisted w hw)
  unfold Entry.heir
  simp only [left] <;> rfl

section
variable {cause : LossCause} {p : Port} {u : State} {i : Slot}

theorem loseAt_port (unlisted : enrolled (u.entry i).waiters p = false) (q : Port) :
    (State.loseAt cause p u i).port q = ((u.entry i).grantTo p q).elim (u.port q) (u.port q).granted := by
  unfold State.loseAt Entry.grantTo
  cases he : u.entry i with
  | held h =>
    rw [he] at unlisted
    rw [heir_held unlisted]
    by_cases holds : h.holder = p
    · simp only [if_pos holds]
      rw [lose_port]
      cases hw : h.waiters with
      | nil => rfl
      | cons w rest =>
        by_cases told : q = w.port ∧ w.waits = true
        · obtain ⟨rfl, waits⟩ := told
          simp [waits, PortUnit.granted]
        · have not_told : ¬ (decide (w.port = q) && w.waits) = true := by
            rw [Bool.and_eq_true, decide_eq_true_eq]
            exact fun ⟨hp, waits⟩ => told ⟨hp.symm, waits⟩
          simp only [if_neg told, if_neg not_told]
          rfl
    · simp only [if_neg holds]
      rfl
  | _ => rfl

theorem loseAt_notice (silent : cause.silent) (unlisted : enrolled (u.entry i).waiters p = false) (q : Port) :
    (State.loseAt cause p u i).notice q =
      if (u.port q).resetAsserted then u.notice q else ((u.entry i).handoffTo p q).elim (u.notice q) (u.notice q).arrive := by
  unfold State.loseAt Entry.handoffTo
  cases he : u.entry i with
  | held h =>
    rw [he] at unlisted
    rw [heir_held unlisted]
    by_cases holds : h.holder = p
    · simp only [if_pos holds]
      have quiet : (u.lose cause i h).notice q = (u.lose .release i h).notice q := by
        rw [lose_notice, lose_notice]
        rcases silent with rfl | rfl <;> simp only [ite_self]
      rw [quiet]
      cases hw : h.waiters with
      | nil =>
        rw [lose_release_notice_same (by rw [hw]; nofun)]
        exact (ite_self _).symm
      | cons w rest =>
        rw [lose_release_notice u i hw]
        cases reset : (u.port q).resetAsserted with
        | true => simp
        | false =>
          by_cases told : q = w.port ∧ w.waits = false
          · obtain ⟨rfl, waits⟩ := told
            simp [waits, holds, ticketBits]
          · have not_told : ¬ (decide (w.port = q) && !w.waits) = true := by
              rw [Bool.and_eq_true, decide_eq_true_eq, Bool.not_eq_true']
              exact fun ⟨hp, waits⟩ => told ⟨hp.symm, waits⟩
            rw [if_neg fun all => told ⟨all.1, all.2.1⟩, if_neg Bool.false_ne_true]
            simp only [if_neg not_told]
            rfl
    · simp only [if_neg holds]
      exact (ite_self _).symm
  | _ => exact (ite_self _).symm

end

/-! ### All the claims of a port -/

/-- What the losses at some slots, in their order, tell a port. -/
theorem foldl_loseAt {cause : LossCause} (silent : cause.silent) {p : Port} (q : Port) (l : List Slot) (once : l.Nodup) (u : State)
    (unlisted : ∀ i ∈ l, enrolled (u.entry i).waiters p = false) :
    (l.foldl (State.loseAt cause p) u).port q = (l.filterMap fun i => (u.entry i).grantTo p q).foldl PortUnit.granted (u.port q) ∧
    (l.foldl (State.loseAt cause p) u).notice q = (if (u.port q).resetAsserted then u.notice q
      else (l.filterMap fun i => (u.entry i).handoffTo p q).foldl NoticeUnit.arrive (u.notice q)) := by
  induction l generalizing u with
  | nil => exact ⟨rfl, (ite_self _).symm⟩
  | cons i l ih =>
    obtain ⟨fresh, once⟩ := List.nodup_cons.1 once
    have others : ∀ j ∈ l, (State.loseAt cause p u i).entry j = u.entry j := fun j hj =>
      loseAt_entry_other cause p u fun same => fresh (same ▸ hj)
    have here := unlisted i List.mem_cons_self
    have grants : (l.filterMap fun j => ((State.loseAt cause p u i).entry j).grantTo p q) =
        l.filterMap fun j => (u.entry j).grantTo p q := List.filterMap_congr fun j hj => by rw [others j hj]
    have handoffs : (l.filterMap fun j => ((State.loseAt cause p u i).entry j).handoffTo p q) =
        l.filterMap fun j => (u.entry j).handoffTo p q := List.filterMap_congr fun j hj => by rw [others j hj]
    have reset : ((State.loseAt cause p u i).port q).resetAsserted = (u.port q).resetAsserted := by
      rw [loseAt_port here]
      cases (u.entry i).grantTo p q <;> rfl
    obtain ⟨port, notice⟩ := ih once (State.loseAt cause p u i)
      fun j hj => by rw [others j hj]; exact unlisted j (List.mem_cons_of_mem i hj)
    rw [List.foldl_cons, port, notice, grants, handoffs, reset, loseAt_port here, loseAt_notice silent here]
    constructor
    · cases given : (u.entry i).grantTo p q <;> simp [given]
    · cases sent : (u.entry i).handoffTo p q <;> cases (u.port q).resetAsserted <;> simp [sent]

section
variable {cause : LossCause} (silent : cause.silent) {p : Port} {u : State}
  (unlisted : ∀ i, enrolled (u.entry i).waiters p = false) (q : Port)
include silent unlisted

theorem loseAll_port : (u.loseAll cause p).port q =
    if u.grantsTo p q = [] then u.port q
    else { u.port q with phase := .idle, replies := (u.port q).replies ++ u.grantsTo p q } := by
  rw [State.loseAll, State.forSlots, (foldl_loseAt silent q slots slots_nodup u fun i _ => unlisted i).1,
    foldl_granted, ← grantsTo_eq]

theorem loseAll_notice : (u.loseAll cause p).notice q =
    if (u.port q).resetAsserted then u.notice q else (u.handoffsTo p q).foldl NoticeUnit.arrive (u.notice q) := by
  rw [State.loseAll, State.forSlots, (foldl_loseAt silent q slots slots_nodup u fun i _ => unlisted i).2,
    ← handoffsTo_eq]

end

/-- The port that loses its claims is told nothing. -/
theorem tells_self (e : Entry) (p : Port) : e.grantTo p p = none ∧ e.handoffTo p p = none := by
  unfold Entry.grantTo Entry.handoffTo
  cases e with
  | held h =>
    unfold Entry.heir
    by_cases holds : h.holder = p
    · simp only [if_pos holds]
      cases left : h.waiters.filter fun w => w.port ≠ p with
      | nil => exact ⟨rfl, rfl⟩
      | cons w rest =>
        have listed : w ∈ h.waiters.filter fun w => w.port ≠ p := left ▸ List.mem_cons_self
        have other : w.port ≠ p := by simpa using (List.mem_filter.1 listed).2
        simp [other]
    · simp [holds]
  | _ => exact ⟨rfl, rfl⟩

theorem grantsTo_self (u : State) (p : Port) : u.grantsTo p p = [] := by
  rw [grantsTo_eq]
  exact List.filterMap_eq_nil_iff.2 fun i _ => (tells_self (u.entry i) p).1

theorem handoffsTo_self (u : State) (p : Port) : u.handoffsTo p p = [] := by
  rw [handoffsTo_eq]
  exact List.filterMap_eq_nil_iff.2 fun i _ => (tells_self (u.entry i) p).2

/-- The records that leave the list before the loss are not those of the heir. -/
theorem heir_afterLeaving (e : Entry) (p q : Port) :
    (e.afterLeaving p false).grantTo p q = e.grantTo p q ∧ (e.afterLeaving p false).handoffTo p q = e.handoffTo p q := by
  cases e with
  | held h =>
    have twice : (h.waiters.filter fun w => w.port ≠ p).filter (fun w => w.port ≠ p) = h.waiters.filter fun w => w.port ≠ p := by
      rw [List.filter_filter]
      exact List.filter_congr fun _ _ => Bool.and_self _
    unfold Entry.grantTo Entry.handoffTo Entry.heir
    simp only [Entry.afterLeaving, Bool.false_and, Bool.false_eq_true, if_false, twice]
    by_cases holds : h.holder = p
    · simp only [if_pos holds]
      cases h.waiters.filter fun w => w.port ≠ p <;> exact ⟨rfl, rfl⟩
    · simp [holds]
  | _ => exact ⟨rfl, rfl⟩

/-- What becomes of an entry at which a transaction ends: nothing, or a FETCHING entry is freed or marked. -/
def Entry.FetchEnds (e e' : Entry) : Prop :=
  e' = e ∨ ∃ a q mark, e = .fetching a q mark ∧ (e' = .free ∨ ∃ mark', e' = .fetching a q mark')

theorem Entry.FetchEnds.tells {e e' : Entry} (h : e.FetchEnds e') (p q : Port) :
    e'.grantTo p q = e.grantTo p q ∧ e'.handoffTo p q = e.handoffTo p q := by
  rcases h with rfl | ⟨a, r, mark, rfl, rfl | ⟨mark', rfl⟩⟩ <;> exact ⟨rfl, rfl⟩

theorem withdraw_fetchEnds (s : State) (t : Transaction) (j : Slot) : (s.entry j).FetchEnds ((s.withdraw t).entry j) := by
  unfold State.withdraw
  split
  · split
    next i mark found =>
      obtain ⟨q, he⟩ := fetchingAt_entry found
      by_cases hj : j = i
      · subst hj
        exact .inr ⟨_, _, _, he, .inl (entry_setEntry_same ..)⟩
      · exact .inl (entry_setEntry_other _ _ _ _ hj)
    · exact .inl rfl
  · exact .inl rfl

theorem orphan_fetchEnds (s : State) (a : PhysAddr) (f : OrphanMark → OrphanMark) (j : Slot) :
    (s.entry j).FetchEnds ((s.orphan a f).entry j) := by
  unfold State.orphan
  split
  next i b q mark found =>
    obtain ⟨k, -, hk⟩ := Option.map_eq_some_iff.1 found
    obtain ⟨rfl, he⟩ := Prod.mk.inj hk
    by_cases hj : j = k
    · subst hj
      exact .inr ⟨_, _, _, he, .inr ⟨_, entry_setEntry_same ..⟩⟩
    · exact .inl (entry_setEntry_other _ _ _ _ hj)
  · exact .inl rfl

theorem endByReset_fetchEnds (s : State) (p : Port) (j : Slot) : (s.entry j).FetchEnds ((s.endByReset p).entry j) := by
  unfold State.endByReset
  split
  · exact .inl rfl
  · exact withdraw_fetchEnds s _ j
  · split
    · exact orphan_fetchEnds s _ _ j
    · exact .inl rfl
  · exact .inl rfl

theorem endByFence_fetchEnds (s : State) (p : Port) (j : Slot) : (s.entry j).FetchEnds ((s.endByFence p).entry j) := by
  unfold State.endByFence
  split
  · exact .inl rfl
  · exact withdraw_fetchEnds s _ j
  · split
    · exact orphan_fetchEnds s _ _ j
    · exact .inl rfl
  · exact .inl rfl

/-- A port leaves the lists and loses its claims after its transaction has ended: the others are told as R56 and R58 say. -/
theorem handedOn_of_leave {cause : LossCause} (silent : cause.silent) {s u : State} {p : Port}
    (entries : ∀ j, (s.entry j).FetchEnds (u.entry j)) (ports : ∀ q, q ≠ p → u.port q = s.port q)
    (notices : ∀ q, q ≠ p → u.notice q = s.notice q) : HandedOn s ((u.removeWaiters p).loseAll cause p) p := by
  have tells : ∀ q i, ((u.removeWaiters p).entry i).grantTo p q = (s.entry i).grantTo p q ∧
      ((u.removeWaiters p).entry i).handoffTo p q = (s.entry i).handoffTo p q := fun q i => by
    rw [removeWaiters_entry, (heir_afterLeaving ..).1, (heir_afterLeaving ..).2]
    exact (entries i).tells p q
  have grants : ∀ q, (u.removeWaiters p).grantsTo p q = s.grantsTo p q := fun q => by
    rw [grantsTo_eq, grantsTo_eq]
    exact List.filterMap_congr fun i _ => (tells q i).1
  have handoffs : ∀ q, (u.removeWaiters p).handoffsTo p q = s.handoffsTo p q := fun q => by
    rw [handoffsTo_eq, handoffsTo_eq]
    exact List.filterMap_congr fun i _ => (tells q i).2
  have unlisted : ∀ i, enrolled ((u.removeWaiters p).entry i).waiters p = false := fun i => by
    rw [removeWaiters_entry]
    exact enrolled_afterLeaving ..
  intro q hq
  rw [loseAll_notice silent unlisted, loseAll_port silent unlisted, grants, handoffs, removeWaiters_port, removeWaiters_notice,
    ports q hq, notices q hq]
  exact ⟨rfl, rfl⟩

/-! ### The write-back queue and the rest of the state -/

/-- The slots of the entries that a loss by `p` retires join the queue, in ascending order (R13, R58). -/
theorem foldl_loseAt_queue (cause : LossCause) (p : Port) (l : List Slot) (once : l.Nodup) (u : State) (queues : Slot → Bool)
    (here : ∀ i ∈ l, queues i = (match u.entry i with
      | .held h => decide (h.holder = p) && h.queuesAtLoss
      | _ => false)) :
    (l.foldl (State.loseAt cause p) u).writeBackQueue = u.writeBackQueue ++ l.filter queues := by
  induction l generalizing u with
  | nil => simp
  | cons i l ih =>
    obtain ⟨fresh, once⟩ := List.nodup_cons.1 once
    have first : (State.loseAt cause p u i).writeBackQueue = if queues i then u.writeBackQueue ++ [i] else u.writeBackQueue := by
      rw [here i List.mem_cons_self]
      unfold State.loseAt
      cases u.entry i with
      | held h =>
        by_cases holds : h.holder = p
        · simp only [if_pos holds, decide_eq_true holds, Bool.true_and]
          exact lose_queue ..
        · simp only [if_neg holds, decide_eq_false holds, Bool.false_and]
          rfl
      | _ => rfl
    have later : ∀ j ∈ l, (State.loseAt cause p u i).entry j = u.entry j := fun j hj =>
      loseAt_entry_other cause p u fun same => fresh (same ▸ hj)
    rw [List.foldl_cons, ih once _ fun j hj => by rw [later j hj]; exact here j (List.mem_cons_of_mem i hj), first, List.filter_cons]
    split <;> simp

theorem removeWaiters_queue (s : State) (p : Port) : (s.removeWaiters p).writeBackQueue = s.writeBackQueue := by
  have frame := removeWaiters_frame s p
  generalize s.removeWaiters p = t at frame ⊢
  exact (congrArg State.writeBackQueue frame :)

theorem leave_queue (u : State) (cause : LossCause) (p : Port) : ((u.removeWaiters p).loseAll cause p).writeBackQueue =
    u.writeBackQueue ++ slots.filter fun i => (u.entry i).queuesLeaving p true := by
  have here : ∀ i, (u.entry i).queuesLeaving p true = (match (u.removeWaiters p).entry i with
      | .held h => decide (h.holder = p) && h.queuesAtLoss
      | _ => false) := fun i => by
    rw [removeWaiters_entry]
    cases u.entry i with
    | held h =>
      have nobody : (h.waiters.filter fun w => w.port ≠ p).isEmpty = h.waiters.all fun w => w.port = p := by
        rw [Bool.eq_iff_iff, List.isEmpty_iff, List.filter_eq_nil_iff, List.all_eq_true]
        simp
      simp only [Entry.queuesLeaving, Entry.afterLeaving, HeldEntry.queuesAtLoss, Bool.true_and, Bool.false_and, Bool.false_eq_true,
        if_false, nobody, Bool.and_assoc]
    | _ => rfl
  rw [← removeWaiters_queue u p]
  generalize u.removeWaiters p = v at here ⊢
  exact foldl_loseAt_queue cause p slots slots_nodup v (fun i => (u.entry i).queuesLeaving p true) fun i _ => here i

/-- A silent loss changes the ports, the table, the write-back queue and the notices alone. -/
theorem leave_frame {cause : LossCause} (silent : cause.silent) (u : State) (p : Port) :
    { (u.removeWaiters p).loseAll cause p with ports := u.ports, table := u.table, writeBackQueue := u.writeBackQueue
                                               notices := u.notices } = u := by
  have each : ∀ (v : State) (i : Slot), { State.loseAt cause p v i with ports := u.ports, table := u.table
                                                                        writeBackQueue := u.writeBackQueue, notices := u.notices } =
      { v with ports := u.ports, table := u.table, writeBackQueue := u.writeBackQueue, notices := u.notices } := fun v i => by
    unfold State.loseAt
    split
    next h _ =>
      split
      · have log : (v.lose cause i h).log = v.log := by
          rw [lose_log, if_neg]
          rcases silent with rfl | rfl <;> nofun
        have frame : { v.lose cause i h with ports := v.ports, table := v.table, writeBackQueue := v.writeBackQueue
                                             notices := v.notices } = v := by
          refine Eq.trans ?_ (lose_frame v cause i h)
          rw [← log]
        exact congrArg (fun x : State => { x with ports := u.ports, table := u.table, writeBackQueue := u.writeBackQueue
                                                  notices := u.notices }) frame
      · rfl
    · rfl
  have removed := removeWaiters_frame u p
  generalize u.removeWaiters p = v at removed ⊢
  have lost := forSlots_same (fun v : State => { v with ports := u.ports, table := u.table, writeBackQueue := u.writeBackQueue
                                                        notices := u.notices }) (State.loseAt cause p) each v
  exact lost.trans (congrArg (fun v : State => { v with ports := u.ports, writeBackQueue := u.writeBackQueue
                                                        notices := u.notices }) removed)

/-! ### FETCHING entries where their transactions end -/

theorem withdraw_fetching {s : State} (distinct : s.AddressesDistinct) {i : Slot} {a : PhysAddr} {q : Port} {mark : OrphanMark}
    (he : s.entry i = .fetching a q mark) (t : Transaction) :
    (s.withdraw t).entry i = if t.purpose = .grantFetch ∧ a = t.physical then .free else s.entry i := by
  by_cases fetch : t.purpose = .grantFetch
  · by_cases word : a = t.physical
    · subst word
      rw [if_pos ⟨fetch, rfl⟩, withdraw_of_entry distinct he fetch]
      exact entry_setEntry_same ..
    · rw [if_neg fun both => word both.2, State.withdraw, if_pos fetch]
      split
      next j _ found =>
        obtain ⟨r, hj⟩ := fetchingAt_entry found
        refine entry_setEntry_other _ _ _ _ fun same => word ?_
        subst same
        rw [he] at hj
        injection hj
      · rfl
  · rw [if_neg fun both => fetch both.1, withdraw_of_other fetch]

theorem orphan_fetching {s : State} (distinct : s.AddressesDistinct) {i : Slot} {a : PhysAddr} {q : Port} {mark : OrphanMark}
    (he : s.entry i = .fetching a q mark) (x : PhysAddr) (f : OrphanMark → OrphanMark) :
    (s.orphan x f).entry i = if a = x then .fetching a q (f mark) else s.entry i := by
  by_cases word : a = x
  · subst word
    rw [if_pos rfl, orphan_of_entry distinct he]
    exact entry_setEntry_same ..
  · rw [if_neg word, State.orphan]
    split
    next j b r m found =>
      obtain ⟨k, at_x, hk⟩ := Option.map_eq_some_iff.1 found
      obtain ⟨rfl, hj⟩ := Prod.mk.inj hk
      refine entry_setEntry_other _ _ _ _ fun same => word ?_
      subst same
      have address := lookup_address at_x
      rw [he] at address
      exact Option.some.inj address
    · rfl

/-! ### The reset of a port (R127, R128) -/

/-- The state in which the reset of a port removes its waiter records: its transaction has ended, its notices are cleared. -/
def State.resetEnds (s : State) (p : Port) : State := ((s.shut p).endByReset p).setNotice p NoticeUnit.empty

theorem assertReset_leaves {s : State} {p : Port} (online : (s.port p).resetAsserted = false) :
    s.assertReset p = ((s.resetEnds p).removeWaiters p).loseAll .offline p := assertReset_eq online

section
variable (s : State) (p : Port)

theorem resetEnds_port (q : Port) : (s.resetEnds p).port q =
    if q = p then { s.port q with phase := .idle, resetAsserted := true, presented := none } else s.port q := by
  rw [State.resetEnds, setNotice_port, endByReset_port, shut_port]
  by_cases hq : q = p
  · simp only [if_pos hq]
  · simp only [if_neg hq]

theorem resetEnds_notice (q : Port) : (s.resetEnds p).notice q = if q = p then NoticeUnit.empty else s.notice q := by
  rw [State.resetEnds, notice_setNotice, notice_eq_of_notices (endByReset_buffers (s.shut p) p).1]
  simp only [eq_comm (a := p)]
  rfl

theorem resetEnds_fetchEnds (j : Slot) : (s.entry j).FetchEnds ((s.resetEnds p).entry j) :=
  endByReset_fetchEnds (s.shut p) p j

theorem resetEnds_frame : { s.resetEnds p with ports := s.ports, table := s.table, notices := s.notices
                                               memPort := s.memPort } = s := by
  unfold State.resetEnds State.endByReset
  split
  · rfl
  · exact (congrArg (fun v : State => { v with ports := s.ports, notices := s.notices, memPort := s.memPort })
      (withdraw_frame (s.shut p) _) :)
  · split
    · exact (congrArg (fun v : State => { v with ports := s.ports, notices := s.notices, memPort := s.memPort })
        (orphan_frame (s.shut p) _ _) :)
    · rfl
  · rfl

end

theorem FetchEnds_other {e e' : Entry} (h : e.FetchEnds e') (other : ∀ a q mark, e ≠ .fetching a q mark) : e' = e := by
  rcases h with same | ⟨a, q, mark, fetching, -⟩
  · exact same
  · exact absurd fetching (other a q mark)

theorem queuesLeaving_fetchEnds {e e' : Entry} (h : e.FetchEnds e') (p : Port) (lose : Bool) :
    e'.queuesLeaving p lose = e.queuesLeaving p lose := by
  rcases h with rfl | ⟨a, q, mark, rfl, rfl | ⟨mark', rfl⟩⟩ <;> rfl

theorem handedOn_assertReset {s : State} {p : Port} (online : (s.port p).resetAsserted = false) : HandedOn s (s.assertReset p) p := by
  rw [assertReset_leaves online]
  refine handedOn_of_leave (.inl rfl) (resetEnds_fetchEnds s p) (fun q hq => ?_) fun q hq => ?_
  · rw [resetEnds_port, if_neg hq]
  · rw [resetEnds_notice, if_neg hq]

theorem unlisted_removeWaiters (u : State) (p : Port) (i : Slot) : enrolled ((u.removeWaiters p).entry i).waiters p = false := by
  rw [removeWaiters_entry]
  exact enrolled_afterLeaving ..

/-- The port that leaves the lists and loses its claims is told nothing. -/
theorem leave_self {cause : LossCause} (silent : cause.silent) (u : State) (p : Port) :
    ((u.removeWaiters p).loseAll cause p).port p = u.port p ∧ ((u.removeWaiters p).loseAll cause p).notice p = u.notice p := by
  rw [loseAll_port silent (unlisted_removeWaiters u p), loseAll_notice silent (unlisted_removeWaiters u p), grantsTo_self,
    handoffsTo_self, if_pos rfl, removeWaiters_port, removeWaiters_notice]
  exact ⟨rfl, ite_self _⟩

end Sys2Proof.Machine
end

section
/-! The statements on what a port's reset and a fence end (R58, R127, R128, R131, R132). -/

namespace Sys2Proof.Machine

/-! ### The operation and the FETCHING entries at a port's reset -/

section
variable {s : State} {p : Port} (distinct : s.AddressesDistinct)
include distinct

theorem resetEnds_queued {u : Transaction} (queued : (s.port p).phase = .queued u) :
    (s.resetEnds p).memPort = s.memPort ∧ ∀ i a q mark, s.entry i = .fetching a q mark →
      (s.resetEnds p).entry i = if u.purpose = .grantFetch ∧ a = u.physical then .free else s.entry i := by
  have phase : ((s.shut p).port p).phase = .queued u := by rw [shut_port, if_pos rfl]; exact queued
  have ends : (s.shut p).endByReset p = ((s.shut p).withdraw u).setPhase p .idle := by rw [State.endByReset, phase]
  rw [State.resetEnds, ends]
  exact ⟨(congrArg State.memPort (withdraw_frame (s.shut p) u) :), fun i a q mark he =>
    withdraw_fetching (s := s.shut p) distinct he u⟩

theorem resetEnds_inMemory {u : Transaction} (memory : (s.port p).phase = .inMemory u) :
    (s.resetEnds p).memPort = (if u.purpose = .grantFetch then s.memPort
      else { s.memPort with operation := s.memPort.operation.map (Operation.giveUp p) }) ∧
    ∀ i a q mark, s.entry i = .fetching a q mark →
      (s.resetEnds p).entry i = if u.purpose = .grantFetch ∧ a = u.physical then .fetching a q .offline else s.entry i := by
  have phase : ((s.shut p).port p).phase = .inMemory u := by rw [shut_port, if_pos rfl]; exact memory
  by_cases fetch : u.purpose = .grantFetch
  · have ends : (s.shut p).endByReset p = ((s.shut p).orphan u.physical fun _ => .offline).setPhase p .idle := by
      rw [State.endByReset, phase]
      exact congrArg (fun v : State => v.setPhase p .idle) (if_pos fetch)
    rw [State.resetEnds, ends, if_pos fetch]
    refine ⟨(congrArg State.memPort (orphan_frame (s.shut p) _ _) :), fun i a q mark he => ?_⟩
    simp only [fetch, true_and]
    exact orphan_fetching (s := s.shut p) distinct he _ _
  · have ends : (s.shut p).endByReset p = ((s.shut p).giveUp p).setPhase p .idle := by
      rw [State.endByReset, phase]
      exact congrArg (fun v : State => v.setPhase p .idle) (if_neg fetch)
    rw [State.resetEnds, ends, if_neg fetch]
    exact ⟨rfl, fun i a q mark _ => (if_neg fun both => fetch both.1).symm⟩

end

theorem resetEnds_apart {s : State} {p : Port} (apart : (s.port p).phase = .idle ∨ ∃ u, (s.port p).phase = .stalled u) :
    (s.resetEnds p).memPort = s.memPort ∧ ∀ i, (s.resetEnds p).entry i = s.entry i := by
  rcases apart with idle | ⟨u, stalled⟩
  · have phase : ((s.shut p).port p).phase = .idle := by rw [shut_port, if_pos rfl]; exact idle
    have ends : (s.shut p).endByReset p = s.shut p := by rw [State.endByReset, phase]
    rw [State.resetEnds, ends]
    exact ⟨rfl, fun _ => rfl⟩
  · have phase : ((s.shut p).port p).phase = .stalled u := by rw [shut_port, if_pos rfl]; exact stalled
    have ends : (s.shut p).endByReset p = (s.shut p).setPhase p .idle := by rw [State.endByReset, phase]
    rw [State.resetEnds, ends]
    exact ⟨rfl, fun _ => rfl⟩

theorem resetEnds_pointer (s : State) (p : Port) : (s.resetEnds p).memPort.pointer = s.memPort.pointer := by
  unfold State.resetEnds State.endByReset
  split
  · rfl
  · exact (congrArg (fun v : State => v.memPort.pointer) (withdraw_frame (s.shut p) _) :)
  · split
    · exact (congrArg (fun v : State => v.memPort.pointer) (orphan_frame (s.shut p) _ _) :)
    · rfl
  · rfl

/-- A FETCHING or FREE entry is on no list and held by nobody. -/
theorem afterLeaving_fetching {e : Entry} (h : e = .free ∨ ∃ a q mark, e = .fetching a q mark) (p : Port) (lose : Bool) :
    e.afterLeaving p lose = e := by
  rcases h with rfl | ⟨a, q, mark, rfl⟩ <;> rfl

/-- Settles O31: the transaction ends, and then the records leave the lists and the claims pass on. -/
theorem portResetEndsHoldings : Obligations.PortResetEndsHoldings := by
  intro s p online
  have leaves := assertReset_leaves online
  obtain ⟨own_port, own_notice⟩ := leave_self (cause := .offline) (.inl rfl) (s.resetEnds p) p
  have entry : ∀ i, (s.assertReset p).entry i = ((s.resetEnds p).entry i).afterLeaving p true := fun i => by
    rw [leaves, leave_entry]
  have frame := leave_frame (cause := .offline) (.inl rfl) (s.resetEnds p) p
  have queue := leave_queue (s.resetEnds p) .offline p
  rw [← leaves] at own_port own_notice frame queue
  have ended := resetEnds_frame s p
  have fetching : ∀ i a q mark, s.entry i = .fetching a q mark → (s.assertReset p).entry i = (s.resetEnds p).entry i :=
    fun i a q mark he => by
      rw [entry]
      refine afterLeaving_fetching ?_ p true
      rcases resetEnds_fetchEnds s p i with same | ⟨b, r, m, -, free | ⟨m', marked⟩⟩
      · exact .inr ⟨a, q, mark, same.trans he⟩
      · exact .inl free
      · exact .inr ⟨b, r, m', marked⟩
  have memPort : (s.assertReset p).memPort = (s.resetEnds p).memPort := by
    generalize s.assertReset p = t at frame ⊢
    exact (congrArg State.memPort frame :)
  refine ⟨s.assertReset p, rfl, ?_, ?_, fun i other => ?_, ?_, ?_, fun distinct => ⟨?_, fun u queued => ?_, fun u memory => ?_,
    fun apart => ?_⟩⟩
  · rw [own_port, resetEnds_port, if_pos rfl]
  · rw [own_notice, resetEnds_notice, if_pos rfl]
    rfl
  · rw [entry, FetchEnds_other (resetEnds_fetchEnds s p i) other]
  · rw [queue, (congrArg State.writeBackQueue ended :)]
    exact congrArg (s.writeBackQueue ++ ·) (List.filter_congr fun i _ => queuesLeaving_fetchEnds (resetEnds_fetchEnds s p i) p true)
  · generalize s.assertReset p = t at frame ⊢
    generalize s.resetEnds p = u at frame ended
    exact (congrArg (fun v : State => { v with ports := s.ports, table := s.table, writeBackQueue := s.writeBackQueue
                                               notices := s.notices, memPort := s.memPort }) frame).trans
      (congrArg (fun v : State => { v with writeBackQueue := s.writeBackQueue }) ended)
  · rw [memPort, resetEnds_pointer]
  · obtain ⟨same, entries⟩ := resetEnds_queued distinct queued
    exact ⟨congrArg MemoryPort.operation (memPort.trans same), fun i a q mark he =>
      (fetching i a q mark he).trans (entries i a q mark he)⟩
  · obtain ⟨port, entries⟩ := resetEnds_inMemory distinct memory
    refine ⟨fun other work a g op => ?_, fun fetch => ?_, fun i a q mark he => (fetching i a q mark he).trans (entries i a q mark he)⟩
    · rw [memPort, port, if_neg other, op]
      simp [Operation.giveUp]
    · rw [memPort, port, if_pos fetch]
  · obtain ⟨same, entries⟩ := resetEnds_apart apart
    exact ⟨congrArg MemoryPort.operation (memPort.trans same), fun i a q mark he => (fetching i a q mark he).trans (entries i)⟩

/-! ### The fence of a port (R131, R132) -/

/-- The state in which a fence removes its port's waiter records: the flag is set, the transaction has ended or is marked. -/
def State.fenceEnds (s : State) (p : Port) : State := (s.raiseFence p).endByFence p

theorem fencePort_leaves (s : State) (p : Port) (revoke : Bool) : s.fencePort p revoke =
    if revoke then ((s.fenceEnds p).removeWaiters p).loseAll .fenceRevoke p else (s.fenceEnds p).removeWaiters p := rfl

section
variable (s : State) (p : Port) (revoke : Bool)

theorem fencePort_entry (j : Slot) : (s.fencePort p revoke).entry j = ((s.fenceEnds p).entry j).afterLeaving p revoke := by
  rw [fencePort_leaves]
  cases revoke with
  | true => exact leave_entry ..
  | false => exact removeWaiters_entry ..

theorem fencePort_self : (s.fencePort p revoke).port p = (s.fenceEnds p).port p ∧
    (s.fencePort p revoke).notice p = (s.fenceEnds p).notice p := by
  rw [fencePort_leaves]
  cases revoke with
  | true => exact leave_self (.inr rfl) ..
  | false => exact ⟨removeWaiters_port .., removeWaiters_notice ..⟩

theorem fencePort_queue : (s.fencePort p revoke).writeBackQueue =
    (s.fenceEnds p).writeBackQueue ++ slots.filter fun i => ((s.fenceEnds p).entry i).queuesLeaving p revoke := by
  rw [fencePort_leaves]
  cases revoke with
  | true => exact leave_queue ..
  | false =>
    have nobody : slots.filter (fun i => ((s.fenceEnds p).entry i).queuesLeaving p false) = [] :=
      List.filter_eq_nil_iff.2 fun i _ => by
        cases (s.fenceEnds p).entry i <;> simp [Entry.queuesLeaving]
    rw [nobody, List.append_nil]
    exact removeWaiters_queue ..

theorem fencePort_frame : { s.fencePort p revoke with
    ports := (s.fenceEnds p).ports, table := (s.fenceEnds p).table, writeBackQueue := (s.fenceEnds p).writeBackQueue
    notices := (s.fenceEnds p).notices } = s.fenceEnds p := by
  rw [fencePort_leaves]
  cases revoke with
  | true => exact leave_frame (.inr rfl) ..
  | false =>
    have removed := removeWaiters_frame (s.fenceEnds p) p
    generalize s.fenceEnds p = u at removed ⊢
    change { u.removeWaiters p with ports := u.ports, table := u.table, writeBackQueue := u.writeBackQueue
                                    notices := u.notices } = u
    generalize u.removeWaiters p = v at removed ⊢
    exact congrArg (fun v : State => { v with ports := u.ports, writeBackQueue := u.writeBackQueue, notices := u.notices }) removed

theorem fenceEnds_fetchEnds (j : Slot) : (s.entry j).FetchEnds ((s.fenceEnds p).entry j) :=
  endByFence_fetchEnds (s.raiseFence p) p j

theorem fenceEnds_notices : (s.fenceEnds p).notices = s.notices := endByFence_notices (s.raiseFence p) p

theorem fenceEnds_port_other {q : Port} (hq : q ≠ p) : (s.fenceEnds p).port q = s.port q := by
  rw [State.fenceEnds, endByFence_port]
  split <;> simp only [raiseFence_port, if_neg hq]

theorem fenceEnds_frame : { s.fenceEnds p with ports := s.ports, table := s.table, log := s.log } = s := by
  unfold State.fenceEnds State.endByFence
  split
  · rfl
  · exact (congrArg (fun v : State => { v with ports := s.ports, log := s.log }) (withdraw_frame (s.raiseFence p) _) :)
  · split
    · exact (congrArg (fun v : State => { v with ports := s.ports, log := s.log }) (orphan_frame (s.raiseFence p) _ _) :)
    · rfl
  · rfl

end

section
variable {s : State} {p : Port} {u : Transaction}

theorem raiseFence_phase (s : State) (p : Port) : ((s.raiseFence p).port p).phase = (s.port p).phase := by
  rw [raiseFence_port, if_pos rfl]

/-- A QUEUED or STALLED transaction completes FAULT with a FENCED record (R131). -/
theorem fenceEnds_completes (ended : (s.port p).phase = .queued u ∨ (s.port p).phase = .stalled u) :
    (s.fenceEnds p).port p = { s.port p with
      fence := true, phase := .idle, replies := (s.port p).replies ++ [u.request.direction.fault] } ∧
    (s.fenceEnds p).log = s.log.append (transactionFault .fenced p u) := by
  rcases ended with queued | stalled
  · have ends : s.fenceEnds p = ((s.raiseFence p).withdraw u).fenceOff p u := by
      rw [State.fenceEnds, State.endByFence, raiseFence_phase, queued]
    rw [ends, State.fenceOff, port_finish_same, logFault_port, withdraw_port, raiseFence_port, if_pos rfl]
    exact ⟨rfl, congrArg (FaultLog.append · _) (congrArg State.log (withdraw_frame (s.raiseFence p) u) :)⟩
  · have ends : s.fenceEnds p = (s.raiseFence p).fenceOff p u := by
      rw [State.fenceEnds, State.endByFence, raiseFence_phase, stalled]
    rw [ends, State.fenceOff, port_finish_same, logFault_port, raiseFence_port, if_pos rfl]
    exact ⟨rfl, rfl⟩

/-- Any other phase stands (R131). -/
theorem fenceEnds_stands (runs : (s.port p).phase = .idle ∨ ∃ u, (s.port p).phase = .inMemory u) :
    (s.fenceEnds p).port p = { s.port p with fence := true } ∧ (s.fenceEnds p).log = s.log := by
  have raised : (s.raiseFence p).port p = { s.port p with fence := true } := by rw [raiseFence_port, if_pos rfl]
  rcases runs with idle | ⟨u, memory⟩
  · have ends : s.fenceEnds p = s.raiseFence p := by
      rw [State.fenceEnds, State.endByFence, raiseFence_phase, idle]
    rw [ends]
    exact ⟨raised, rfl⟩
  · unfold State.fenceEnds State.endByFence
    rw [raiseFence_phase, memory]
    dsimp only
    split
    · exact ⟨(orphan_port ..).trans raised, (congrArg State.log (orphan_frame (s.raiseFence p) _ _) :)⟩
    · exact ⟨raised, rfl⟩

variable (distinct : s.AddressesDistinct) {i : Slot} {a : PhysAddr} {q : Port} {mark : OrphanMark}
  (he : s.entry i = .fetching a q mark)
include distinct he

theorem fenceEnds_fetch_queued (queued : (s.port p).phase = .queued u) :
    (s.fenceEnds p).entry i = if u.purpose = .grantFetch ∧ a = u.physical then .free else s.entry i := by
  have ends : s.fenceEnds p = ((s.raiseFence p).withdraw u).fenceOff p u := by
    rw [State.fenceEnds, State.endByFence, raiseFence_phase, queued]
  rw [ends]
  exact withdraw_fetching (s := s.raiseFence p) distinct he u

theorem fenceEnds_fetch_memory (memory : (s.port p).phase = .inMemory u) : (s.fenceEnds p).entry i =
    if u.purpose = .grantFetch ∧ a = u.physical then .fetching a q (if mark = .none then .fenced else mark) else s.entry i := by
  have marked : mark.fence = if mark = .none then .fenced else mark := by cases mark <;> rfl
  unfold State.fenceEnds State.endByFence
  rw [raiseFence_phase, memory]
  dsimp only
  split
  next fetch =>
    simp only [fetch, true_and]
    rw [orphan_fetching (s := s.raiseFence p) distinct he, marked]
    rfl
  next other => exact (if_neg fun both => other both.1).symm

omit distinct he in
theorem fenceEnds_fetch_apart (apart : (s.port p).phase = .idle ∨ ∃ u, (s.port p).phase = .stalled u) (i : Slot) :
    (s.fenceEnds p).entry i = s.entry i := by
  rcases apart with idle | ⟨u, stalled⟩
  · have ends : s.fenceEnds p = s.raiseFence p := by
      rw [State.fenceEnds, State.endByFence, raiseFence_phase, idle]
    rw [ends]
    rfl
  · have ends : s.fenceEnds p = (s.raiseFence p).fenceOff p u := by
      rw [State.fenceEnds, State.endByFence, raiseFence_phase, stalled]
    rw [ends]
    rfl

end

/-! ### The command FENCE -/

/-- The state in which the link carries out an accepted command: its slot emptied, the outcome ACCEPTED (R157). -/
def State.accepted (s : State) : State := s.setLink { s.link with slot := none, outcome := .accepted }

theorem takeFrame_accepted {s : State} {seq : Byte} {c : Command} (takes : s.LinkTakes) :
    s.takeFrame seq (some c) = s.accepted.carryOut seq c := takeFrame_takes takes

theorem exec_fence {s : State} (takes : s.LinkTakes) (p : Port) (seq : Byte) (revoke : Bool) :
    exec (.fence seq (BitVec.ofNat 8 p.val) (if revoke then 1 else 0)) s =
      .next (((s.accepted.fencePort p revoke).done seq []).endEvent s) := by
  have command : ∀ flag : Byte, ¬ 1 < flag.toNat → s.accepted.carryOut seq (.fence (BitVec.ofNat 8 p.val) flag) =
      ((s.accepted.fencePort p (flag = 1)).done seq []).endEvent s.accepted := fun flag in_range => by
    simp only [State.carryOut, State.fenceCommand, portOfByte_ofNat, if_neg in_range]
  have ended : ∀ t : State, t.endEvent s.accepted = t.endEvent s := fun t => endEvent_setLink s t _
  refine congrArg Host.Outcome.next ((takeFrame_accepted takes).trans ?_)
  cases revoke with
  | true => exact (command 1 (by decide)).trans (ended _)
  | false => exact (command 0 (by decide)).trans (ended _)

theorem handedOn_fencePort (s : State) (p : Port) : HandedOn s (s.fencePort p true) p := by
  have leaves : s.fencePort p true = ((s.fenceEnds p).removeWaiters p).loseAll .fenceRevoke p := by
    rw [fencePort_leaves, if_pos rfl]
  rw [leaves]
  exact handedOn_of_leave (.inr rfl) (fenceEnds_fetchEnds s p) (fun q hq => fenceEnds_port_other s p hq)
    fun q _ => notice_eq_of_notices (fenceEnds_notices s p) q

theorem fencePort_notice_same (s : State) (p : Port) (revoke : Bool) : (s.fencePort p revoke).notice p = s.notice p :=
  (fencePort_self s p revoke).2.trans (notice_eq_of_notices (fenceEnds_notices s p) p)

/-- Settles O32: both events hand the claims on slot by slot. -/
theorem claimsHandedOnInSlotOrder : Obligations.ClaimsHandedOnInSlotOrder := by
  refine ⟨fun s p online => ⟨_, rfl, handedOn_assertReset online⟩, fun s p seq takes => ⟨_, exec_fence takes p seq true, ?_⟩⟩
  have handed : HandedOn s (s.accepted.fencePort p true) p := handedOn_fencePort s.accepted p
  have own : (s.accepted.fencePort p true).notice p = s.notice p := fencePort_notice_same s.accepted p true
  generalize s.accepted.fencePort p true = t at handed own ⊢
  exact ⟨handed, own⟩

end Sys2Proof.Machine
end

section
/-! The statement on FENCE (R131, R132, R59). -/

namespace Sys2Proof.Machine

/-- A fence without revoke leaves the other ports and every notice (R131). -/
theorem fencePort_alone (s : State) (p : Port) :
    PortsSameBut s (s.fencePort p false) p ∧ (s.fencePort p false).notices = s.notices := by
  have leaves : s.fencePort p false = (s.fenceEnds p).removeWaiters p := by
    rw [fencePort_leaves, if_neg Bool.false_ne_true]
  rw [leaves]
  have removed := removeWaiters_frame (s.fenceEnds p) p
  refine ⟨fun q hq => (removeWaiters_port ..).trans (fenceEnds_port_other s p hq), ?_⟩
  have notices := fenceEnds_notices s p
  generalize s.fenceEnds p = u at removed notices ⊢
  generalize u.removeWaiters p = v at removed ⊢
  exact (congrArg State.notices removed :).trans notices

/-- What a fence leaves unchanged (R131). -/
theorem fencePort_frame_start (s : State) (p : Port) (revoke : Bool) : { s.fencePort p revoke with
    ports := s.ports, table := s.table, writeBackQueue := s.writeBackQueue, notices := s.notices, log := s.log } = s := by
  have frame := fencePort_frame s p revoke
  have ended := fenceEnds_frame s p
  generalize s.fencePort p revoke = t at frame ⊢
  generalize s.fenceEnds p = u at frame ended
  exact (congrArg (fun v : State => { v with ports := s.ports, table := s.table, writeBackQueue := s.writeBackQueue
                                             notices := s.notices, log := s.log }) frame).trans
    (congrArg (fun v : State => { v with writeBackQueue := s.writeBackQueue, notices := s.notices }) ended)

theorem fencePort_log (s : State) (p : Port) (revoke : Bool) : (s.fencePort p revoke).log = (s.fenceEnds p).log := by
  have frame := fencePort_frame s p revoke
  generalize s.fencePort p revoke = t at frame ⊢
  exact (congrArg State.log frame :)

/-- The end of the transaction puts no slot in the write-back queue. -/
theorem fencePort_queue_start (s : State) (p : Port) (revoke : Bool) : (s.fencePort p revoke).writeBackQueue =
    s.writeBackQueue ++ slots.filter fun i => (s.entry i).queuesLeaving p revoke := by
  have ended := fenceEnds_frame s p
  have queues := fun i => queuesLeaving_fetchEnds (fenceEnds_fetchEnds s p i) p revoke
  rw [fencePort_queue]
  generalize s.fenceEnds p = u at ended queues ⊢
  rw [(congrArg State.writeBackQueue ended :)]
  exact congrArg (s.writeBackQueue ++ ·) (List.filter_congr fun i _ => queues i)

/-- The entries that were FETCHING change at the end of the transaction alone. -/
theorem fencePort_entry_fetching {s : State} {p : Port} {i : Slot} {a : PhysAddr} {q : Port} {mark : OrphanMark}
    (he : s.entry i = .fetching a q mark) (revoke : Bool) : (s.fencePort p revoke).entry i = (s.fenceEnds p).entry i := by
  rw [fencePort_entry]
  refine afterLeaving_fetching ?_ p revoke
  rcases fenceEnds_fetchEnds s p i with same | ⟨b, r, m, -, free | ⟨m', marked⟩⟩
  · exact .inr ⟨a, q, mark, same.trans he⟩
  · exact .inl free
  · exact .inr ⟨b, r, m', marked⟩

section
variable {s : State} {p : Port} (distinct : s.AddressesDistinct) {i : Slot} {a : PhysAddr} {q : Port} {mark : OrphanMark}
  (he : s.entry i = .fetching a q mark)
include distinct he

/-- A FETCHING entry that is not of the port's own fetch stands (R131). -/
theorem fenceEnds_fetch_other (other : ∀ u, (s.port p).phase = .queued u ∨ (s.port p).phase = .inMemory u →
    u.purpose ≠ .grantFetch ∨ a ≠ u.physical) : (s.fenceEnds p).entry i = s.entry i := by
  have differs : ∀ u, (s.port p).phase = .queued u ∨ (s.port p).phase = .inMemory u →
      ¬ (u.purpose = .grantFetch ∧ a = u.physical) := fun u under ⟨fetch, word⟩ => by
    rcases other u under with purpose | address
    · exact purpose fetch
    · exact address word
  cases phase : (s.port p).phase with
  | idle => exact fenceEnds_fetch_apart (.inl phase) i
  | stalled u => exact fenceEnds_fetch_apart (.inr ⟨u, phase⟩) i
  | queued u => rw [fenceEnds_fetch_queued distinct he phase, if_neg (differs u (.inl phase))]
  | inMemory u => rw [fenceEnds_fetch_memory distinct he phase, if_neg (differs u (.inr phase))]

end

/-- What a fence does and leaves, but for the response of its command (R131, R132). -/
theorem fencePort_fences (s : State) (p : Port) (revoke : Bool) :
    (∀ u, (s.port p).phase = .queued u ∨ (s.port p).phase = .stalled u →
      (s.fencePort p revoke).port p =
        { s.port p with fence := true, phase := .idle, replies := (s.port p).replies ++ [u.request.direction.fault] } ∧
      (s.fencePort p revoke).log = s.log.append (transactionFault .fenced p u)) ∧
    ((s.port p).phase = .idle ∨ (∃ u, (s.port p).phase = .inMemory u) →
      (s.fencePort p revoke).port p = { s.port p with fence := true } ∧ (s.fencePort p revoke).log = s.log) := by
  have own := (fencePort_self s p revoke).1
  have log := fencePort_log s p revoke
  exact ⟨fun u ended => ⟨own.trans (fenceEnds_completes ended).1, log.trans (fenceEnds_completes ended).2⟩,
    fun runs => ⟨own.trans (fenceEnds_stands runs).1, log.trans (fenceEnds_stands runs).2⟩⟩

theorem fencePort_entry_other (s : State) (p : Port) (revoke : Bool) {i : Slot}
    (other : ∀ a q mark, s.entry i ≠ .fetching a q mark) :
    (s.fencePort p revoke).entry i = (s.entry i).afterLeaving p revoke := by
  rw [fencePort_entry, FetchEnds_other (fenceEnds_fetchEnds s p i) other]

/-- Settles O44: the transaction ends or is marked, and then the records leave and, with revoke, the claims pass on. -/
theorem fenceEndsTransactionAndWaits : Obligations.FenceEndsTransactionAndWaits := by
  intro s p seq revoke takes distinct
  refine ⟨_, exec_fence takes p seq revoke, ?_⟩
  have distinct' : s.accepted.AddressesDistinct := distinct
  have link := fencePort_frame_start s.accepted p revoke
  have notice := fencePort_notice_same s.accepted p revoke
  have fences := fencePort_fences s.accepted p revoke
  have fetching : ∀ i a q mark, s.entry i = .fetching a q mark → (s.accepted.fencePort p revoke).entry i = (s.accepted.fenceEnds p).entry i :=
    fun i a q mark he => fencePort_entry_fetching (s := s.accepted) he revoke
  have queued : ∀ i a q mark, s.entry i = .fetching a q mark → ∀ u, (s.port p).phase = .queued u → u.purpose = .grantFetch →
      a = u.physical → (s.accepted.fencePort p revoke).entry i = .free := fun i a q mark he u phase fetch word =>
    (fetching i a q mark he).trans ((fenceEnds_fetch_queued (s := s.accepted) distinct' he phase).trans (if_pos ⟨fetch, word⟩))
  have memory : ∀ i a q mark, s.entry i = .fetching a q mark → ∀ u, (s.port p).phase = .inMemory u → u.purpose = .grantFetch →
      a = u.physical → (s.accepted.fencePort p revoke).entry i = .fetching a q (if mark = .none then .fenced else mark) :=
    fun i a q mark he u phase fetch word =>
    (fetching i a q mark he).trans ((fenceEnds_fetch_memory (s := s.accepted) distinct' he phase).trans (if_pos ⟨fetch, word⟩))
  have other : ∀ i a q mark, s.entry i = .fetching a q mark → (∀ u, (s.port p).phase = .queued u ∨ (s.port p).phase = .inMemory u →
      u.purpose ≠ .grantFetch ∨ a ≠ u.physical) → (s.accepted.fencePort p revoke).entry i = s.entry i := fun i a q mark he apart =>
    (fetching i a q mark he).trans (fenceEnds_fetch_other (s := s.accepted) distinct' he apart)
  have others : ∀ i, (∀ a q mark, s.entry i ≠ .fetching a q mark) →
      (s.accepted.fencePort p revoke).entry i = (s.entry i).afterLeaving p revoke := fun i => fencePort_entry_other s.accepted p revoke
  have queue := fencePort_queue_start s.accepted p revoke
  have alone : revoke = false → PortsSameBut s (s.accepted.fencePort p revoke) p ∧ (s.accepted.fencePort p revoke).notices = s.notices := by
    rintro rfl
    exact fencePort_alone s.accepted p
  clear fetching
  generalize s.accepted.fencePort p revoke = t at link notice fences queued memory other others queue alone ⊢
  refine ⟨?_, notice, fences.1, fences.2, fun i a q mark he => ⟨queued i a q mark he, memory i a q mark he, other i a q mark he⟩,
    others, queue, alone, (congrArg (fun v : State => v.setLink s.link) link :)⟩
  exact congrArg (fun v : State => { v.link with slot := some { status := .done, seq := seq, payload := [] } }) link

end Sys2Proof.Machine
end

section
/-! Frames and the commands they carry (section 12.3), and what the link keeps while an event ends. -/

namespace Sys2Proof.Machine

/-! ### No event at a port reaches the link -/

theorem claimRead_link (s : State) (p : Port) (r : Request) (a : PhysAddr) (f : ClaimFields) :
    (s.claimRead p r a f).link = s.link := by
  have contend : ∀ (s : State) q h, (s.contend q h).link = s.link := fun s q h => by
    unfold State.contend
    split <;> simp
  unfold State.claimRead
  split
  · split <;> simp [State.allocate]
  · split
    · simp
    · simp
    · split
      · simp
      · unfold State.attemptHeld
        split
        · split
          · simp
          · split <;> simp [State.stall, contend]
        · split <;> simp [contend]
        · split <;> simp
    · simp only [State.revive]
      split <;> simp
    · simp

theorem routeRequest_link (s : State) (p : Port) (r : Request) : (s.routeRequest p r).link = s.link := by
  unfold State.routeRequest
  split
  · simp [State.refuse]
  · split
    · simp only [State.noticePop]
      split
      · simp
      · split <;> simp
    · simp [State.noticeControl]
  · unfold State.plain
    split
    · simp [State.refuse]
    · split <;> simp [State.refuse]
  · split
    · exact claimRead_link ..
    · simp only [State.claimSegmentWrite, State.claimWrite]
      repeat' split
      all_goals simp [State.refuse]
  · split
    · simp only [State.view]
      split <;> simp
    · simp [State.refuse]

theorem take_link (s : State) (p : Port) (r : Request) : (s.take p r).link = s.link := by
  simp only [State.take]
  split
  · simp [State.refuse]
  · exact routeRequest_link ..

theorem takeReady_link (s before : State) : (s.takeReady before).link = s.link :=
  takeReady_induct (fun u => u.link = s.link) (fun u p r h => (take_link u p r).trans h) (fun _ h => h) s rfl

/-- Where no command is in process, the end of an event leaves the link (R164). -/
theorem endEvent_link {s : State} (idle : s.link.process = none) (before : State) : (s.endEvent before).link = s.link := by
  have same : s.drainEnd = s := by
    rcases drainEnd_cases s with ⟨seq, running, -⟩ | ⟨-, same⟩
    · rw [idle] at running
      cases running
    · exact same
  unfold State.endEvent
  rw [same]
  split <;> exact takeReady_link s before

/-! ### The command that a frame carries (R160, section 12.3) -/

theorem bytes24_append (x : BitVec 24) : x.extractLsb' 16 8 ++ x.extractLsb' 8 8 ++ x.extractLsb' 0 8 = x := by
  apply BitVec.eq_of_getLsbD_eq
  intro i hi
  simp only [BitVec.getLsbD_append, BitVec.getLsbD_extractLsb']
  by_cases low : i < 8
  · simp [low]
  · by_cases middle : i < 16
    · simp [low, show i - 8 < 8 by omega, show 8 + (i - 8) = i by omega]
    · simp [low, show ¬ i - 8 < 8 by omega, show i - 8 - 8 < 8 by omega, show 16 + (i - 8 - 8) = i by omega]

theorem commandOfFrame_unknown {code : Byte} (unknown : 13 < code.toNat) (payload : List Byte) :
    commandOfFrame code payload = some (.unknown code) := by
  unfold commandOfFrame
  split <;> first | omega | rfl

/-- The length check of a frame passes the payload of each command that the link can carry. -/
theorem commandOfFrame_payload {cmd : Command} (sendable : Command.sendable cmd = true) :
    commandOfFrame (Command.code cmd) (Command.payload cmd) = some cmd := by
  cases cmd with
  | mapLoad port count records =>
    simp only [Command.sendable, Bool.and_eq_true, decide_eq_true_eq] at sendable
    exact if_pos sendable.1
  | unknown code => exact commandOfFrame_unknown (of_decide_eq_true sendable) []
  | claimRevoke slot addr ticket =>
    change some (Command.claimRevoke slot _ ticket) = _
    rw [bytes24_append]
  | timeSet divisor =>
    change some (Command.timeSet _) = _
    rw [bytes16_append]
  | _ => rfl

theorem payload_length {cmd : Command} (sendable : Command.sendable cmd = true) : (Command.payload cmd).length ≤ 250 := by
  cases cmd with
  | mapLoad port count records =>
    simp only [Command.sendable, Bool.and_eq_true, decide_eq_true_eq] at sendable
    simp only [Command.payload, List.length_cons]
    omega
  | _ => simp [Command.payload, bytes24, bytes16]

theorem code_ne_zero {cmd : Command} (sendable : Command.sendable cmd = true) : Command.code cmd ≠ 0 := by
  cases cmd with
  | unknown code =>
    rintro zero
    simp only [Command.code] at zero
    subst zero
    simp [Command.sendable] at sendable
  | _ => simp [Command.code]

/-- The row of a command is its good frame (log 15). -/
theorem exec_row (s : State) (seq : Byte) {cmd : Command} (sendable : Command.sendable cmd = true) :
    exec (Command.row seq cmd) s = .next (s.takeFrame seq (some cmd)) := by
  have command := commandOfFrame_payload sendable
  cases cmd with
  | mapLoad port count records => exact congrArg (fun c => Host.Outcome.next (s.takeFrame seq c)) command
  | unknown code =>
    change Host.Outcome.next (if code = 0 then s else s.takeFrame seq (commandOfFrame code [])) = _
    have named : code ≠ 0 := code_ne_zero sendable
    rw [if_neg named]
    exact congrArg (fun c => Host.Outcome.next (s.takeFrame seq c)) command
  | _ => rfl

theorem exec_frame_row (s : State) (seq : Byte) {cmd : Command} (sendable : Command.sendable cmd = true) :
    exec (.frame (frameBytes (Command.code cmd) seq (Command.payload cmd))) s = exec (Command.row seq cmd) s := by
  rw [exec_row s seq sendable]
  change Host.Outcome.next (s.receive _) = _
  cases reset : s.partReset with
  | true =>
    rw [takeFrame_reset reset]
    exact congrArg Host.Outcome.next (by unfold State.receive; exact if_pos reset)
  | false => rw [receive_frame reset (code_ne_zero sendable) (payload_length sendable), commandOfFrame_payload sendable]

/-! ### What every accepted command leaves in the link (R157, R158) -/

/-- The outcome is ACCEPTED, and a response carries the sequence number `seq`. -/
def Link.Answers (l : Link) (seq : Byte) : Prop := l.outcome = .accepted ∧ ∀ r, l.slot = some r → r.seq = seq

theorem respond_answers {s : State} (accepted : s.link.outcome = .accepted) (seq : Byte) (st : ResponseStatus)
    (payload : List Byte) : (s.respond seq st payload).link.Answers seq :=
  ⟨accepted, fun _ hr => Option.some.inj hr ▸ rfl⟩

theorem done_endEvent_answers {s : State} (accepted : s.link.outcome = .accepted) (idle : s.link.process = none) (seq : Byte)
    (payload : List Byte) (before : State) : ((s.done seq payload).endEvent before).link.Answers seq := by
  rw [endEvent_link (s := s.done seq payload) idle]
  exact respond_answers accepted seq .done payload

theorem fencePort_link (s : State) (p : Port) (revoke : Bool) : (s.fencePort p revoke).link = s.link := by
  have frame := fencePort_frame_start s p revoke
  generalize s.fencePort p revoke = t at frame ⊢
  exact (congrArg State.link frame :)

theorem onPort_answers {s : State} (accepted : s.link.outcome = .accepted) {seq port : Byte} {f : Port → State}
    (each : ∀ p, (f p).link.Answers seq) : (s.onPort seq port f).link.Answers seq := by
  unfold State.onPort
  split
  · exact each _
  · exact respond_answers accepted ..

theorem carryOut_answers {s : State} (accepted : s.link.outcome = .accepted) (idle : s.link.process = none)
    (empty : s.link.slot = none) (seq : Byte) (cmd : Command) : (s.carryOut seq cmd).link.Answers seq := by
  have refused : ∀ st payload, (s.respond seq st payload).link.Answers seq := respond_answers accepted seq
  have done : ∀ {t : State}, t.link = s.link → ∀ payload, (t.done seq payload).link.Answers seq := fun same payload =>
    respond_answers (same ▸ accepted) seq .done payload
  have event : ∀ {t : State}, t.link = s.link → ∀ payload, ((t.done seq payload).endEvent s).link.Answers seq :=
    fun same payload => done_endEvent_answers (same ▸ accepted) (same ▸ idle) seq payload s
  cases cmd with
  | status => exact done rfl _
  | mapLoad port count records =>
    simp only [State.carryOut, State.mapLoad]
    split
    · exact done rfl _
    · exact refused ..
    · exact refused ..
  | mapRead port => exact onPort_answers accepted fun p => done rfl _
  | mapOpen port => exact onPort_answers accepted fun p => done rfl _
  | unfence port => exact onPort_answers accepted fun p => done rfl _
  | fence port revoke =>
    simp only [State.carryOut, State.fenceCommand]
    split
    · split
      · exact refused ..
      · exact event (fencePort_link ..) _
    · exact refused ..
  | quiesce =>
    simp only [State.carryOut, State.quiesceCommand]
    split
    · exact done rfl _
    · exact ⟨accepted, fun r hr => by rw [setLink_link, empty] at hr; cases hr⟩
  | resume => exact event (t := s.setQuiesce .running) rfl _
  | claimList first maximum =>
    simp only [State.carryOut, State.claimList]
    split
    · split
      · exact refused ..
      · exact done rfl _
    · exact refused ..
  | claimRevoke slot addr ticket =>
    simp only [State.carryOut, State.claimRevoke]
    split
    · split
      · exact refused ..
      · split
        · split
          · exact refused ..
          · split
            · exact refused ..
            · exact event (lose_link ..) _
        · exact refused ..
    · exact refused ..
  | claimClear slot =>
    simp only [State.carryOut, State.claimClear]
    split
    · split
      · exact done rfl _
      · exact refused ..
    · exact refused ..
  | logRead maximum =>
    simp only [State.carryOut, State.logRead]
    split
    · exact refused ..
    · exact done rfl _
  | timeSet divisor =>
    simp only [State.carryOut, State.timeSet]
    split
    · exact refused ..
    · exact done rfl _
  | unknown code => exact refused ..

theorem exec_row_takes {s : State} (takes : s.LinkTakes) (seq : Byte) {cmd : Command} (sendable : Command.sendable cmd = true) :
    exec (Command.row seq cmd) s = .next (s.accepted.carryOut seq cmd) := by
  rw [exec_row s seq sendable, takeFrame_accepted takes]

/-- Settles O38: the frame is taken as its command, which answers with the frame's number or not at all. -/
theorem goodFrameIsItsCommand : Obligations.GoodFrameIsItsCommand := by
  refine fun s cmd seq sendable => ⟨exec_frame_row s seq sendable, fun takes => ?_⟩
  rw [exec_frame_row s seq sendable, exec_row_takes takes seq sendable]
  have answers : (s.accepted.carryOut seq cmd).link.Answers seq := carryOut_answers (s := s.accepted) rfl takes.2 rfl seq cmd
  exact ⟨_, rfl, answers.1, answers.2⟩

/-- Settles O1: a step on a queue that is not empty is `exec` of its front. -/
theorem stepRunsFrontCommand : Obligations.StepRunsFrontCommand := fun _ _ _ => rfl

end Sys2Proof.Machine
end

section
/-! The statements on refused commands, on STATUS, on the map commands, and on UNFENCE, RESUME and TIME-SET (Chapters 5 and 11). -/

namespace Sys2Proof.Machine

/-! ### Commands that only answer -/

/-- The command `c` answers, and nothing else of the part changes. -/
def Responds (s : State) (c : Instr) (seq : Byte) (st : ResponseStatus) (payload : List Byte) : Prop :=
  ∃ t, exec c s = .next t ∧ Answered s t seq st payload ∧ { t with link := s.link } = s

section
variable {s : State} (takes : s.LinkTakes) {seq : Byte} {st : ResponseStatus} {payload : List Byte}
include takes

theorem responds_of {cmd : Command} (sendable : Command.sendable cmd = true)
    (answers : s.accepted.carryOut seq cmd = s.accepted.respond seq st payload) :
    Responds s (Command.row seq cmd) seq st payload :=
  ⟨_, (exec_row_takes takes seq sendable).trans (congrArg _ answers), rfl, rfl⟩

/-- A command whose checks fail is refused FIELD (R160, R173). -/
theorem responds_refused {cmd : Command} (sendable : Command.sendable cmd = true)
    (refuses : s.accepted.carryOut seq cmd = s.accepted.refused seq .field) :
    Responds s (Command.row seq cmd) seq (.refused .field) [] := responds_of takes sendable refuses

/-- A command on a port that is none is refused FIELD. -/
theorem responds_onPort {cmd : Command} {port : Byte} {f : Port → State} (sendable : Command.sendable cmd = true)
    (is_onPort : s.accepted.carryOut seq cmd = s.accepted.onPort seq port f) (no_port : 3 < port.toNat) :
    Responds s (Command.row seq cmd) seq (.refused .field) [] :=
  responds_refused takes sendable (is_onPort.trans (by rw [State.onPort, portOfByte_none no_port]))

end

/-- Settles O42: each field out of its range makes the command's first checks refuse it. -/
theorem refusedCommandChangesNothing : Obligations.RefusedCommandChangesNothing := by
  refine ⟨fun s seq c takes fault => ?_, fun s code seq payload takes unknown => ?_⟩
  · change Responds s c seq (.refused .field) []
    rcases fault with ⟨port, no_port, rfl | rfl | rfl | ⟨flag, rfl⟩⟩ | ⟨port, flag, no_flag, rfl⟩ |
      ⟨slot, maximum, fault, rfl⟩ | ⟨slot, addr, ticket, fault, rfl⟩ | ⟨slot, no_slot, rfl⟩ | ⟨maximum, many, rfl⟩ | rfl
    · exact responds_onPort takes (cmd := .mapRead port) rfl rfl no_port
    · exact responds_onPort takes (cmd := .mapOpen port) rfl rfl no_port
    · exact responds_onPort takes (cmd := .unfence port) rfl rfl no_port
    · refine responds_refused takes (cmd := .fence port flag) rfl ?_
      rw [State.carryOut, State.fenceCommand, portOfByte_none no_port]
    · refine responds_refused takes (cmd := .fence port flag) rfl ?_
      rw [State.carryOut, State.fenceCommand]
      split
      · rw [if_pos no_flag]
      · rfl
    · refine responds_refused takes (cmd := .claimList slot maximum) rfl ?_
      rw [State.carryOut, State.claimList]
      rcases fault with no_slot | beyond
      · rw [slotOfByte_none no_slot]
      · split
        · rw [if_pos beyond]
        · rfl
    · refine responds_refused takes (cmd := .claimRevoke slot addr ticket) rfl ?_
      rw [State.carryOut, State.claimRevoke]
      rcases fault with no_slot | beyond
      · rw [slotOfByte_none no_slot]
      · split
        · rw [if_pos beyond]
        · rfl
    · refine responds_refused takes (cmd := .claimClear slot) rfl ?_
      rw [State.carryOut, State.claimClear, slotOfByte_none no_slot]
    · exact responds_refused takes (cmd := .logRead maximum) rfl (logRead_refused many)
    · exact responds_refused takes (cmd := .timeSet 0) rfl (show s.accepted.timeSet seq 0 = _ from if_pos rfl)
  · have named : code ≠ 0 := fun zero => by simp [zero] at unknown
    refine ⟨s.accepted.refused seq .command, congrArg Host.Outcome.next ?_, rfl, rfl⟩
    rw [if_neg named, commandOfFrame_unknown unknown, takeFrame_accepted takes]
    rfl

/-! ### STATUS (R161) -/

/-- The fields of a STATUS port byte. -/
theorem portByte_fields (fence : Bool) (phase condition : BitVec 2) :
    let b : Byte := (0 : BitVec 3) ++ BitVec.ofBool fence ++ phase ++ condition
    b.getLsbD 4 = fence ∧ b.extractLsb' 5 3 = 0 ∧ b.extractLsb' 0 2 = condition ∧ b.extractLsb' 2 2 = phase := by
  revert fence phase condition
  decide

/-- Settles O43: the payload is the one that section 12.3 lays out. -/
theorem statusReportsThePart : Obligations.StatusReportsThePart := by
  intro s seq takes
  obtain ⟨t, run, answered, same⟩ := responds_of takes (cmd := .status) (seq := seq) rfl rfl
  refine ⟨t, (s.port 0).statusByte, (s.port 1).statusByte, (s.port 2).statusByte, (s.port 3).statusByte, run, same, ?_,
    fun p => ⟨(s.port p).statusByte, ?_, ?_⟩⟩
  · refine answered.trans ?_
    simp only [State.statusPayload, QuiesceState.code]
    rfl
  · match p with
    | 0 | 1 | 2 | 3 => rfl
  · obtain ⟨fence, zeros, condition, phase⟩ := portByte_fields (s.port p).fence (s.port p).phase.code (s.port p).condition.code
    refine ⟨fence, zeros, condition.trans ?_, phase.trans ?_⟩
    · unfold PortUnit.condition
      repeat' split
      all_goals rfl
    · cases (s.port p).phase <;> rfl

/-! ### The map commands (R87, R91, R93, R94) -/

theorem portOfByte_some {b : Byte} (in_range : b.toNat < 4) : ∃ p, portOfByte b = some p :=
  ⟨⟨b.toNat, in_range⟩, dif_pos in_range⟩

section
variable {s : State} {seq port : Byte} {l : List Segment}

/-- A MAP-LOAD of the records of a list that a frame has room for. -/
theorem exec_mapLoad (takes : s.LinkTakes) (room : l.length ≤ 17) :
    exec (.mapLoad seq port (BitVec.ofNat 8 l.length) (l.flatMap Segment.bytes)) s =
      .next (s.accepted.mapLoad seq port (BitVec.ofNat 8 l.length) (l.flatMap Segment.bytes)) := by
  have count : (BitVec.ofNat 8 l.length).toNat = l.length := by rw [BitVec.toNat_ofNat]; omega
  refine exec_row_takes takes seq (cmd := .mapLoad port (BitVec.ofNat 8 l.length) (l.flatMap Segment.bytes)) ?_
  have length := records_length l
  simp only [Command.sendable, Bool.and_eq_true, decide_eq_true_eq]
  rw [count]
  omega

/-- The checks of a MAP-LOAD of a list, in their order (R87). -/
theorem mapLoadFault_list (room : l.length ≤ 17) :
    mapLoadFault port (BitVec.ofNat 8 l.length) (l.flatMap Segment.bytes) =
      if 4 ≤ port.toNat then some (.field, none)
      else if 8 < l.length then some (.count, none)
      else (listFault l).map fun (r, n) => (r, some n) := by
  have count : (BitVec.ofNat 8 l.length).toNat = l.length := by rw [BitVec.toNat_ofNat]; omega
  rw [mapLoadFault, count, segmentsOf_bytes]
  by_cases no_port : 4 ≤ port.toNat
  · rw [portOfByte_none no_port, if_pos no_port]
    rfl
  · obtain ⟨p, named⟩ := portOfByte_some (not_le.1 no_port)
    rw [named, if_neg no_port]
    rfl

/-- A MAP-LOAD that a check refuses (R87, R173). -/
theorem mapLoad_refused (takes : s.LinkTakes) (room : l.length ≤ 17) {r : Reason} {n : Option Nat}
    (fault : mapLoadFault port (BitVec.ofNat 8 l.length) (l.flatMap Segment.bytes) = some (r, n)) :
    Responds s (.mapLoad seq port (BitVec.ofNat 8 l.length) (l.flatMap Segment.bytes)) seq (.refused r) [recordByte n] := by
  have refuses : s.accepted.mapLoad seq port (BitVec.ofNat 8 l.length) (l.flatMap Segment.bytes) =
      s.accepted.respond seq (.refused r) [recordByte n] := by
    rw [State.mapLoad, fault]
    cases portOfByte port <;> rfl
  exact ⟨_, (exec_mapLoad takes room).trans (congrArg _ refuses), rfl, rfl⟩

/-- A MAP-LOAD that passes every check installs its list (R91). -/
theorem mapLoad_installs {p : Port} (takes : s.LinkTakes) (sound : PortMap.sound (.mapped l) = true) :
    exec (.mapLoad seq (BitVec.ofNat 8 p.val) (BitVec.ofNat 8 l.length) (l.flatMap Segment.bytes)) s =
      .next ((s.accepted.setMap p (.mapped l)).done seq []) := by
  simp only [PortMap.sound, Bool.and_eq_true, decide_eq_true_eq] at sound
  obtain ⟨count, no_fault⟩ := sound
  have in_range : ¬ 4 ≤ (BitVec.ofNat 8 p.val).toNat := by rw [BitVec.toNat_ofNat]; omega
  have passes := mapLoadFault_list (port := BitVec.ofNat 8 p.val) (l := l) (by omega)
  rw [if_neg in_range, if_neg (by omega), no_fault] at passes
  rw [exec_mapLoad takes (by omega), State.mapLoad, passes, portOfByte_ofNat, segmentsOf_bytes]
  rfl

end

/-- Settles O39: the fault that the checks find is the answer. -/
theorem mapLoadRefused : Obligations.MapLoadRefused := by
  intro s seq port l takes room
  have fault := mapLoadFault_list (port := port) room
  refine ⟨fun no_port => ?_, fun in_range many => ?_, fun reason n in_range few found => ?_⟩
  · rw [if_pos no_port] at fault
    exact mapLoad_refused takes room fault
  · rw [if_neg (by omega), if_pos many] at fault
    exact mapLoad_refused takes room fault
  · rw [if_neg (by omega), if_neg (by omega), found] at fault
    exact mapLoad_refused takes room fault

theorem exec_mapRead {s : State} (takes : s.LinkTakes) (p : Port) (seq : Byte) :
    Responds s (.mapRead seq (BitVec.ofNat 8 p.val)) seq .done (s.map p).readPayload := by
  refine responds_of takes (cmd := .mapRead (BitVec.ofNat 8 p.val)) rfl ?_
  rw [State.carryOut, State.onPort, portOfByte_ofNat]
  rfl

/-- A command that replaced the map of `p` and answered DONE, and a MAP-READ after it. -/
theorem replaced_and_read {s : State} (takes : s.LinkTakes) (p : Port) (m : PortMap) {c : Instr} (seq seq2 : Byte)
    (replaces : exec c s = .next ((s.accepted.setMap p m).done seq [])) :
    ∃ t, exec c s = .next t ∧ t.map p = m ∧ (∀ q, q ≠ p → t.map q = s.map q) ∧ Answered s t seq .done [] ∧
      { t with maps := s.maps, link := s.link } = s ∧
      Responds t (.mapRead seq2 (BitVec.ofNat 8 p.val)) seq2 .done m.readPayload := by
  have takes' : ((s.accepted.setMap p m).done seq []).LinkTakes := takes
  have read := exec_mapRead takes' p seq2
  have installed : ((s.accepted.setMap p m).done seq []).map p = m := map_setMap_same ..
  rw [installed] at read
  exact ⟨_, replaces, installed, fun q hq => map_setMap_other _ _ _ _ hq, rfl, rfl, read⟩

/-- Settles O41: what a command installs is what MAP-READ finds. -/
theorem mapLoadAndMapOpenReplaceTheMap : Obligations.MapLoadAndMapOpenReplaceTheMap := by
  refine ⟨fun s p seq seq2 l takes sound => ?_, fun s p seq seq2 takes => ?_, fun s p seq takes => ?_⟩
  · exact replaced_and_read takes p (.mapped l) seq seq2 (mapLoad_installs takes sound)
  · refine replaced_and_read takes p .openMode seq seq2 ?_
    refine (exec_row_takes takes seq (cmd := .mapOpen (BitVec.ofNat 8 p.val)) rfl).trans (congrArg _ ?_)
    rw [State.carryOut, State.onPort, portOfByte_ofNat]
  · obtain ⟨t, run, answered, same⟩ := exec_mapRead takes p seq
    refine ⟨t, run, same, fun is_open => ?_, fun l mapped => ?_⟩
    · rw [is_open] at answered
      exact answered
    · rw [mapped] at answered
      exact answered

/-! ### UNFENCE, RESUME and TIME-SET (R133, R165, R66) -/

/-- Settles O51: each command changes its own field, and answers. -/
theorem unfenceResumeAndTimeSetActAlone : Obligations.UnfenceResumeAndTimeSetActAlone := by
  refine ⟨⟨fun s p seq takes => ?_, fun s seq takes => ?_⟩, fun s seq divisor takes not_zero => ?_⟩
  · have unfences : s.accepted.carryOut seq (.unfence (BitVec.ofNat 8 p.val)) = (s.accepted.unfencePort p).done seq [] := by
      rw [State.carryOut, State.onPort, portOfByte_ofNat]
    exact ⟨_, (exec_row_takes takes seq (cmd := .unfence _) rfl).trans (congrArg _ unfences), rfl,
      port_setPort_same s.accepted p _, fun q hq => port_setPort_other s.accepted p q _ hq, rfl⟩
  · have resumes := exec_row_takes takes seq (cmd := .resume) rfl
    have ended : ∀ t : State, t.endEvent s.accepted = t.endEvent s := fun t => endEvent_setLink s t _
    exact ⟨_, resumes.trans (congrArg _ (ended _)), rfl, rfl, rfl⟩
  · have sets : s.accepted.carryOut seq (.timeSet divisor) =
        State.done { s.accepted with divisor := divisor, divider := divisor } seq [] := if_neg not_zero
    exact ⟨_, (exec_row_takes takes seq (cmd := .timeSet divisor) rfl).trans (congrArg _ sets), rfl, rfl, rfl, rfl⟩

end Sys2Proof.Machine
end

section
/-! The statements on the claim commands (R166 to R168), and what ends a quarantine (R20). -/

namespace Sys2Proof.Machine

/-! ### CLAIM-LIST (R166) -/

theorem slots_ascending : slots.Pairwise (· < ·) := List.pairwise_lt_finRange 64

theorem waiterBytes_length (l : List Waiter) : (waiterBytes l).length = 3 := by
  simp [waiterBytes]

theorem claimRecord_length {i : Slot} {e : Entry} (listed : e ≠ .free) : (claimRecord i e).length = 15 := by
  cases e with
  | free => exact absurd rfl listed
  | _ => simp [claimRecord, Entry.recordTail, bytes24, bytes16, waiterBytes_length]

/-- What a list cut short leaves out comes after all that it holds. -/
theorem left_out_of_take {l : List Slot} (ascending : l.Pairwise (· < ·)) {n : Nat} {j : Slot} (mem : j ∈ l) (out : j ∉ l.take n) :
    (l.take n).length = n ∧ ∀ k ∈ l.take n, k < j := by
  have behind : j ∈ l.drop n := by
    rw [← List.take_append_drop n l, List.mem_append] at mem
    exact mem.resolve_left out
  refine ⟨?_, fun k hk => ?_⟩
  · have some_left := List.length_pos_of_mem behind
    rw [List.length_drop] at some_left
    rw [List.length_take]
    omega
  · rw [← List.take_append_drop n l] at ascending
    exact (List.pairwise_append.1 ascending).2.2 k hk j behind

/-- Settles O47: the listing is the front part of the ascending list of the slots in question. -/
theorem claimListReportsInOrder : Obligations.ClaimListReportsInOrder := by
  intro s seq first maximum takes in_range
  have lists : s.accepted.carryOut seq (.claimList (BitVec.ofNat 8 first.val) maximum) = s.accepted.respond seq .done
      (countByte (s.listed first maximum.toNat).length ::
        (s.listed first maximum.toNat).flatMap fun j => claimRecord j (s.entry j)) := by
    rw [State.carryOut, State.claimList, slotOfByte_ofNat]
    exact if_neg (not_lt.2 in_range)
  obtain ⟨t, run, answered, same⟩ := responds_of takes (cmd := .claimList (BitVec.ofNat 8 first.val) maximum) rfl lists
  have ascending : (slots.filter fun i => first ≤ i && s.entry i ≠ .free).Pairwise (· < ·) :=
    slots_ascending.sublist List.filter_sublist
  have mem : ∀ j, j ∈ slots.filter (fun i => first ≤ i && s.entry i ≠ .free) ↔ first ≤ j ∧ s.entry j ≠ .free := fun j => by
    simp [slots]
  have listed : ∀ j ∈ s.listed first maximum.toNat, first ≤ j ∧ s.entry j ≠ .free := fun j hj =>
    (mem j).1 (List.mem_of_mem_take hj)
  exact ⟨t, s.listed first maximum.toNat, run, same, answered, List.length_take_le .., ascending.sublist (List.take_sublist ..),
    listed, fun j from_first not_free out => left_out_of_take ascending ((mem j).2 ⟨from_first, not_free⟩) out,
    fun j hj => ⟨claimRecord_length (listed j hj).2, rfl⟩⟩

/-! ### CLAIM-REVOKE (R167) -/

section
variable {s : State} {seq ticket : Byte} {i : Slot} {x : PhysAddr}

/-- The address bytes of a CLAIM-REVOKE name a word. -/
theorem revoke_address (x : PhysAddr) : ¬ 0x3FFFFF < (x.setWidth 24).toNat ∧ (x.setWidth 24).setWidth 22 = x := by
  refine ⟨?_, ?_⟩
  · rw [BitVec.toNat_setWidth]
    omega
  · rw [BitVec.setWidth_setWidth_of_le x (by decide), BitVec.setWidth_eq]

theorem claimRevoke_held {h : HeldEntry} (he : s.entry i = .held h) :
    s.claimRevoke seq (BitVec.ofNat 8 i.val) (x.setWidth 24) ticket =
      if h.address ≠ x then s.refused seq .notHeld
      else if h.ticket ≠ ticket then s.refused seq .ticket
      else ((s.lose .revoke i h).done seq h.afterLoss.revokePayload).endEvent s := by
  obtain ⟨in_range, word⟩ := revoke_address x
  rw [State.claimRevoke, slotOfByte_ofNat]
  dsimp only
  rw [if_neg in_range, he, word, ← lose_entry s .revoke i h]

theorem claimRevoke_notHeld (other : ∀ h, s.entry i = .held h → h.address ≠ x) :
    s.claimRevoke seq (BitVec.ofNat 8 i.val) (x.setWidth 24) ticket = s.refused seq .notHeld := by
  cases he : s.entry i with
  | held h =>
    rw [claimRevoke_held he]
    exact if_pos (other h he)
  | _ =>
    rw [State.claimRevoke, slotOfByte_ofNat]
    dsimp only
    rw [if_neg (revoke_address x).1, he]

variable {h : HeldEntry} (he : s.entry i = .held h) (word : h.address = x)
include he word

theorem claimRevoke_ticket (other : h.ticket ≠ ticket) :
    s.claimRevoke seq (BitVec.ofNat 8 i.val) (x.setWidth 24) ticket = s.refused seq .ticket := by
  rw [claimRevoke_held he, if_neg (not_not.2 word), if_pos other]

theorem claimRevoke_revokes (current : h.ticket = ticket) :
    s.claimRevoke seq (BitVec.ofNat 8 i.val) (x.setWidth 24) ticket =
      ((s.lose .revoke i h).done seq h.afterLoss.revokePayload).endEvent s := by
  rw [claimRevoke_held he, if_neg (not_not.2 word), if_neg (not_not.2 current)]

end

/-- The response of a CLAIM-REVOKE that took the claim away (section 12.3). -/
theorem revokePayload_afterLoss (h : HeldEntry) : h.afterLoss.revokePayload =
    if h.waiters = [] then [3, 0, h.ticket] else [2, BitVec.ofNat 8 h.nextHolder.val, h.nextTicket] := by
  unfold HeldEntry.afterLoss HeldEntry.nextHolder HeldEntry.nextTicket
  cases h.waiters <;> rfl

/-- A loss by revocation writes no record. -/
theorem lose_revoke_frame (s : State) (i : Slot) (h : HeldEntry) : { s.lose .revoke i h with
    ports := s.ports, table := s.table, writeBackQueue := s.writeBackQueue, notices := s.notices } = s := by
  have frame := lose_frame s .revoke i h
  have log : (s.lose .revoke i h).log = s.log := (lose_log ..).trans (if_neg nofun)
  rw [← log] at frame
  exact frame

/-- Settles O48: the entry decides between the two refusals and a loss of which the former holder is told. -/
theorem claimRevokeDecidedAtEntry : Obligations.ClaimRevokeDecidedAtEntry := by
  intro s seq i x ticket takes
  have run : exec (.claimRevoke seq (BitVec.ofNat 8 i.val) (x.setWidth 24) ticket) s =
      .next (s.accepted.claimRevoke seq (BitVec.ofNat 8 i.val) (x.setWidth 24) ticket) :=
    exec_row_takes takes seq (cmd := .claimRevoke ..) rfl
  refine ⟨fun other => ⟨_, run.trans (congrArg _ (claimRevoke_notHeld (s := s.accepted) other)), rfl, rfl⟩,
    fun h he word other => ⟨_, run.trans (congrArg _ (claimRevoke_ticket (s := s.accepted) he word other)), rfl, rfl⟩,
    fun h lists he word current => ?_⟩
  have ended : ∀ t : State, t.endEvent s.accepted = t.endEvent s := fun t => endEvent_setLink s t _
  have revokes := run.trans (congrArg _ ((claimRevoke_revokes (s := s.accepted) he word current).trans (ended _)))
  refine ⟨_, revokes, ?_⟩
  have entry := lose_entry s.accepted .revoke i h
  have others : ∀ j, j ≠ i → (s.accepted.lose .revoke i h).entry j = s.entry j := lose_entry_other s.accepted .revoke i h
  have queue := lose_queue s.accepted .revoke i h
  have told : FormerTold s (s.accepted.lose .revoke i h) .revoked h :=
    lose_formerTold (s := s.accepted) (i := i) (.inr ⟨rfl, rfl⟩) (ports_nodup lists he)
  have frame := lose_revoke_frame s.accepted i h
  generalize s.accepted.lose .revoke i h = u at entry others queue told frame ⊢
  obtain ⟨former, nobody, head⟩ := told
  refine ⟨entry, others, queue, ?_, former, nobody, head, (congrArg (fun v : State => v.setLink s.link) frame :)⟩
  rw [Answered, ← revokePayload_afterLoss]
  have link : u.link = s.accepted.link := (congrArg State.link frame :)
  exact congrArg (fun l : Link => { l with slot := some { status := .done, seq := seq, payload := h.afterLoss.revokePayload } }) link

/-! ### CLAIM-CLEAR and quarantine (R168, R20) -/

section
variable {i : Slot} {a : PhysAddr} {k : Ticket} {w : Payload}

/-- A change of an entry that is not QUARANTINED is a change of another entry. -/
theorem quarantined_setEntry {s : State} {j : Slot} {e : Entry} (hs : s.entry i = .quarantined a k w)
    (other : ∀ b m v, s.entry j ≠ .quarantined b m v) : (s.setEntry j e).entry i = .quarantined a k w := by
  have apart : i ≠ j := fun same => other a k w (same ▸ hs)
  rw [entry_setEntry_other _ _ _ _ apart, hs]

theorem TableChange.quarantined {s t : State} (c : TableChange s t) (hs : s.entry i = .quarantined a k w) :
    t.entry i = .quarantined a k w := by
  cases c with
  | same table => rw [entry_eq_of_table table, hs]
  | allocate p b j _ free => exact quarantined_setEntry hs (by rw [free]; nofun)
  | mark j b p m m' he => exact quarantined_setEntry hs (by rw [he]; nofun)
  | freeFetch j b p m he => exact quarantined_setEntry hs (by rw [he]; nofun)
  | grant j b p q m v n he => exact quarantined_setEntry hs (by rw [he]; nofun)
  | list j h h' he => exact quarantined_setEntry hs (by rw [he]; nofun)
  | lose j h v he => exact quarantined_setEntry (s := s) hs (by rw [he]; nofun)
  | revive p j r n he => exact quarantined_setEntry (s := s) hs (by rw [he]; nofun)
  | issueWriteBack j rest r _ _ he => exact quarantined_setEntry (s := s.setQueue rest) hs (by rw [setQueue_entry, he]; nofun)
  | requeue j b d r f _ he => exact quarantined_setEntry (s := s.setOperation none) hs (by rw [setOperation_entry, he]; nofun)
  | written j b d r f e _ he => exact quarantined_setEntry (s := s.setOperation none) hs (by rw [setOperation_entry, he]; nofun)
  | writtenHeld j b d h _ he => exact quarantined_setEntry (s := s.setOperation none) hs (by rw [setOperation_entry, he]; nofun)
  | _ => exact hs

theorem Change.quarantined {s t : State} (c : Change s t) (hs : s.entry i = .quarantined a k w) :
    t.entry i = .quarantined a k w := kept_of_each (fun _ _ c => c.quarantined) c.tableChanges hs

theorem Changes.quarantined {s t : State} (c : Changes s t) (hs : s.entry i = .quarantined a k w) :
    t.entry i = .quarantined a k w := kept_of_each (fun _ _ c => c.quarantined) c hs

theorem endEvent_quarantined {s : State} (before : State) (hs : s.entry i = .quarantined a k w) :
    (s.endEvent before).entry i = .quarantined a k w := by
  have looked : s.drainEnd.entry i = .quarantined a k w := by
    rcases drainEnd_cases s with ⟨_, _, _, _, h⟩ | ⟨_, h⟩ <;> rw [h] <;> exact hs
  unfold State.endEvent
  split
  · exact (takeReady_changes ..).quarantined hs
  · exact (takeReady_changes ..).quarantined looked

theorem takeTick_quarantined {s : State} (first : Option Expiry) (hs : s.entry i = .quarantined a k w) :
    (s.takeTick first).entry i = .quarantined a k w :=
  takeTick_kept (P := fun u => u.entry i = .quarantined a k w) (fun _ _ c => c.quarantined)
    (fun u hu => by rw [ticked_entry, hu]; rfl) s first hs

/-- Only a CLAIM-CLEAR of its slot, whose response DONE is then in the slot of the link, or a part reset ends a quarantine (R20). -/
theorem Ran.quarantined {c : Instr} {s t : State} (h : Ran c s t) (hs : s.entry i = .quarantined a k w) (no_reset : c ≠ .partReset) :
    t.entry i = .quarantined a k w ∨
      ((∃ slot, Instr.Brings c s (.claimClear slot) ∧ slotOfByte slot = some i) ∧ t.entry i = .free ∧
        ∃ seq, t.link.slot = some { status := .done, seq := seq, payload := [] }) := by
  cases h with
  | event changes => exact .inl (endEvent_quarantined s (changes.quarantined hs))
  | quiet changes => exact .inl (changes.quarantined hs)
  | completed _ _ before _ after =>
    exact .inl (endEvent_quarantined s (after.quarantined (before.quarantined hs :)))
  | tick first => exact .inl (endEvent_quarantined s (takeTick_quarantined (s := s.setDivider s.divisor) first hs))
  | partReset is_reset => exact absurd is_reset no_reset
  | released => exact .inl (endEvent_quarantined s hs)
  | resumed => exact .inl (endEvent_quarantined s hs)
  | @cleared slot j b m v l brings named he _ done =>
    by_cases same : i = j
    · subst same
      exact .inr ⟨⟨slot, brings, named⟩, entry_setEntry_same s i .free, done⟩
    · exact .inl ((entry_setEntry_other s j i .free same).trans hs)
  | _ => exact .inl hs

end

/-- The byte that names a slot is its number. -/
theorem eq_ofNat_of_slotOfByte {b : Byte} {i : Slot} (named : slotOfByte b = some i) : b = BitVec.ofNat 8 i.val := by
  unfold slotOfByte at named
  split at named
  · cases named
    exact (BitVec.setWidth_eq b).symm.trans (BitVec.ofNat_toNat 8 b).symm
  · cases named

/-- The frames that bring a CLAIM-CLEAR of slot `i`. -/
theorem brings_claimClear {c : Instr} {s : State} {slot : Byte} {i : Slot} (brings : Instr.Brings c s (.claimClear slot))
    (named : slotOfByte slot = some i) :
    (∃ seq, c = .claimClear seq (BitVec.ofNat 8 i.val)) ∨ (∃ seq, c = .unknownCommand 0x0B seq [BitVec.ofNat 8 i.val]) ∨
      (∃ bytes, c = .frame bytes) ∨ ∃ e, c = .selection e := by
  rw [← eq_ofNat_of_slotOfByte named]
  rcases brings with ⟨seq, rfl⟩ | ⟨code, seq, payload, rfl, command⟩ | ⟨bytes, rfl | ⟨extra, rfl⟩, -⟩ | ⟨rfl, -⟩
  · exact .inl ⟨seq, rfl⟩
  · have is_clear : (0x0B : Byte) = code := commandOfFrame_code command
    subst is_clear
    change (match payload with
      | [slot] => some (Command.claimClear slot)
      | _ => none) = _ at command
    split at command
    · cases command
      exact .inr (.inl ⟨seq, rfl⟩)
    · cases command
  · exact .inr (.inr (.inl ⟨bytes, rfl⟩))
  · exact .inr (.inr (.inr ⟨_, rfl⟩))
  · exact .inr (.inr (.inr ⟨_, rfl⟩))

/-- Settles O49: the entry decides the command, and no other change reaches a QUARANTINED entry. -/
theorem claimClearFreesQuarantine : Obligations.ClaimClearFreesQuarantine := by
  refine ⟨fun s seq i takes => ?_, fun s t c i a k w hs h no_reset => ?_⟩
  · have run : exec (.claimClear seq (BitVec.ofNat 8 i.val)) s = .next (s.accepted.claimClear seq (BitVec.ofNat 8 i.val)) :=
      exec_row_takes takes seq (cmd := .claimClear ..) rfl
    rw [State.claimClear, slotOfByte_ofNat] at run
    dsimp only at run
    refine ⟨fun ⟨a, k, w, he⟩ => ?_, fun other => ?_⟩
    · have quarantined : s.accepted.entry i = .quarantined a k w := he
      rw [quarantined] at run
      exact ⟨_, run, entry_setEntry_same s.accepted i .free, fun j hj => entry_setEntry_other s.accepted i j .free hj, rfl, rfl⟩
    · refine ⟨s.accepted.refused seq .notQuarantined, run.trans (congrArg _ ?_), rfl, rfl⟩
      split
      next a k w he => exact absurd he (other a k w)
      · rfl
  · rcases (exec_ran h).quarantined hs no_reset with stays | ⟨⟨slot, brings, named⟩, free, done⟩
    · exact .inl (stays.trans hs.symm)
    · exact .inr ⟨brings_claimClear brings named, free, done⟩

end Sys2Proof.Machine
end

section
/-! The statements on the resets, on the drain of a QUIESCE, and on what changes the bank and the quiesce state. -/

namespace Sys2Proof.Machine

/-! ### The state after reset -/

theorem reset_entry (i : Slot) : State.reset.entry i = .free := by
  show (Vector.replicate 64 Entry.free)[i.val] = .free
  simp

theorem reset_port (p : Port) : State.reset.port p = PortUnit.atReset := by
  show (Vector.replicate 4 PortUnit.atReset)[p.val] = PortUnit.atReset
  simp

theorem reset_notice (p : Port) : State.reset.notice p = NoticeUnit.empty := by
  show (Vector.replicate 4 NoticeUnit.empty)[p.val] = NoticeUnit.empty
  simp

theorem reset_map (p : Port) : State.reset.map p = .openMode := by
  show (Vector.replicate 4 PortMap.openMode)[p.val] = .openMode
  simp

/-- Settles O60: the table and the queues are empty, and every port is IDLE with nothing presented. -/
theorem resetSatisfiesInvariants : Obligations.ResetSatisfiesInvariants := by
  refine ⟨addressesDistinct_free reset_entry, fun i => ?_, ⟨List.nodup_nil, fun i => ?_⟩, fun i => ?_, fun p => ?_, fun p closed => ?_,
    fun p _ i => ?_, ⟨fun p => ?_, Nat.zero_le _⟩, fun p => ?_, ?_, drainSound_of_not_draining nofun rfl, rfl, ?_,
    fun p _ => ?_, writeBackSound_idle nofun fun i => ?_⟩
  · rw [reset_entry]; rfl
  · rw [reset_entry]; exact ⟨nofun, nofun⟩
  · rw [reset_entry]; rfl
  · rw [reset_port]; exact waitRecords_zero.2 fun i => by rw [reset_entry]; rfl
  · rw [reset_port] at closed; cases closed
  · rw [reset_entry]; rfl
  · rw [reset_notice]; exact Nat.zero_le _
  · rw [reset_map]; rfl
  · show 1 ≤ (10 : Ticks).toNat ∧ (10 : Ticks).toNat ≤ (10 : Ticks).toNat
    decide
  · have idle : ∀ p, (State.reset.port p).phase = .idle := fun p => by rw [reset_port]; rfl
    refine ⟨fun p t memory => ?_, fun p t queued => ?_, fun p t memory => ?_, nofun, fun i a p mark he => ?_⟩
    · rw [idle] at memory; cases memory
    · rw [idle] at queued; cases queued
    · rw [idle] at memory; cases memory
    · rw [reset_entry] at he; cases he
  · rw [reset_port]; rfl
  · rw [reset_entry]; rfl

/-! ### Part reset (R136, R146) -/

theorem address_of_writes {op : Operation} {a : PhysAddr} {be : Lanes} {d : Word} (writes : op.writes = some (a, be, d)) :
    op.address = a := by
  rcases op with ⟨p, work, b, g⟩ | ⟨i, b, d'⟩
  · cases work <;> cases writes
    rfl
  · cases writes
    rfl

/-- Part reset abandons the write in flight, which has been performed or not (R146). -/
theorem assertPartReset_writes {s : State} {op : Operation} {a : PhysAddr} {be : Lanes} {d : Word}
    (flight : s.memPort.operation = some op) (writes : op.writes = some (a, be, d)) :
    s.assertPartReset.bank = s.bank ∨ s.assertPartReset.bank = writeWord s.bank a be d := by
  have found : s.memPort.operation.bind Operation.writes = some (a, be, d) := by rw [flight]; exact writes
  rw [assertPartReset_bank, State.abandon, found]
  change (if _ then _ else _) = _ ∨ (if _ then _ else _) = _
  split
  · exact .inr rfl
  · exact .inl rfl

theorem assertPartReset_reads {s : State} (reads : ∀ op, s.memPort.operation = some op → op.writes = none) :
    s.assertPartReset.bank = s.bank := by
  have found : s.memPort.operation.bind Operation.writes = none := Option.bind_eq_none_iff.2 reads
  rw [assertPartReset_bank, State.abandon, found]

/-- Settles O33: part reset sets each field to that of the reset state, but for the pins and the bank. -/
theorem partResetClearsPart : Obligations.PartResetClearsPart := by
  intro s
  refine ⟨s.assertPartReset, rfl, fun p => ⟨assertPartReset_port s p, reset_map p, assertPartReset_notice s p, ?_⟩,
    assertPartReset_entry s, rfl, rfl, rfl, rfl, rfl, rfl, rfl, rfl, rfl, rfl, fun sel selected => ?_, assertPartReset_reads,
    fun op a be d sound flight writes => ?_⟩
  · rw [State.attention, assertPartReset_notice]
    rfl
  · obtain ⟨before, -, rfl⟩ := Option.map_eq_some_iff.1 selected
    rfl
  · rcases assertPartReset_writes flight writes with same | written
    · exact .inl same
    · exact .inr (written ▸ writeWord_written sound a be d)

/-! ### The release of the resets, and part reset held (R130, R170) -/

theorem takes_false_of_partReset {s : State} (reset : s.partReset = true) (p : Port) : s.takes p = false := by
  simp [State.takes, reset]

/-- Settles O34: a release writes one field; while part reset is held each command's first check stops it. -/
theorem resetInputsReleasedAndHeld : Obligations.ResetInputsReleasedAndHeld := by
  refine ⟨⟨fun s p => ⟨s.deassertReset p, rfl, port_setPort_same .., fun q hq => port_setPort_other _ _ _ _ hq, rfl, ?_⟩,
    fun s => rfl, fun s p reset => if_pos reset⟩, fun s reset => ⟨fun c p r hc online => ?_, fun c hc => ?_, fun bytes extra => ?_⟩⟩
  · rw [State.deassertReset, port_setPort_same]
    rfl
  · exact ⟨_, exec_access_waits hc online (takes_false_of_partReset reset p), port_setPort_same ..,
      fun q hq => port_setPort_other _ _ _ _ hq, rfl⟩
  · have counts : s.tbclk = s := by
      rw [State.tbclk, if_neg fun ticks => by simp [(ticks_iff.1 ticks).1] at reset, if_pos reset]
    have frames : ∀ seq cmd, s.takeFrame seq cmd = s := fun seq cmd => takeFrame_reset reset
    rcases hc with rfl | rfl | rfl | ⟨bytes, rfl⟩ | ⟨cmd, seq, rfl⟩
    · exact congrArg Host.Outcome.next (by rw [arbitrate_none (.inl reset), endEvent_self])
    · exact congrArg Host.Outcome.next counts
    · exact congrArg Host.Outcome.next counts
    · exact congrArg Host.Outcome.next (by unfold State.receive; exact if_pos reset)
    · cases cmd with
      | unknown code => exact congrArg Host.Outcome.next (by rw [frames, ite_self])
      | _ => exact congrArg Host.Outcome.next (frames seq _)
  · change ∃ t, Host.Outcome.next (s.wholeSelection bytes extra) = _ ∧ _
    refine ⟨_, rfl, ?_⟩
    unfold State.wholeSelection
    split
    next sel selected => exact ⟨rfl, fun none => by rw [none] at selected; cases selected⟩
    next unselected =>
      have disregarded : s.newSelection.disregarded = true := reset
      simp only [State.endSelection, disregarded, if_true]
      refine ⟨rfl, fun _ => ?_⟩
      change { s.link with selection := none, sdo := [] } = { s.link with sdo := [] }
      rw [← unselected]

/-! ### The drain of a QUIESCE (R164) -/

theorem allDrained_false_iff {s : State} :
    s.allDrained = false ↔ ∃ p u, (s.port p).phase = .queued u ∨ (s.port p).phase = .inMemory u := by
  rw [← Bool.not_eq_true, allDrained_iff, not_forall]
  refine exists_congr fun p => ?_
  cases (s.port p).phase <;> simp

/-- Settles O45: QUIESCE looks at the phases itself, and so does the end of each event that changed them. -/
theorem quiesceDrains : Obligations.QuiesceDrains := by
  refine ⟨fun s seq takes => ?_, fun s before => ⟨fun seq drains process => ?_, fun no_drain => ?_⟩, fun s seq draining process => ?_⟩
  · have run : exec (.quiesce seq) s = .next (s.accepted.quiesceCommand seq) := exec_row_takes takes seq (cmd := .quiesce) rfl
    refine ⟨fun drained => ?_, fun running busy => ?_⟩
    · have at_once : (s.accepted.quiesce = .quiesced || s.accepted.allDrained) = true := by
        rw [Bool.or_eq_true, decide_eq_true_eq]
        exact drained.imp id allDrained_iff.2
      rw [State.quiesceCommand, if_pos at_once] at run
      exact ⟨_, run, rfl, rfl, rfl⟩
    · have drains : ¬ (s.accepted.quiesce = .quiesced || s.accepted.allDrained) = true := by
        rw [Bool.or_eq_true, decide_eq_true_eq]
        rintro (quiesced | drained)
        · exact running quiesced
        · rw [show s.accepted.allDrained = false from allDrained_false_iff.2 busy] at drained
          cases drained
      rw [State.quiesceCommand, if_neg drains] at run
      exact ⟨_, run, rfl, rfl, rfl⟩
  · obtain ⟨busy, draining, drained⟩ := drains
    exact endEvent_drain (allDrained_false_iff.2 busy) process draining (allDrained_iff.2 drained)
  · refine endEvent_eq ?_
    rcases no_drain with no_drain | idle
    · cases before_drained : before.allDrained with
      | true => exact .inl rfl
      | false =>
        cases drained : s.allDrained with
        | false => exact .inr (.inl rfl)
        | true =>
          exact .inr (.inr (.inl fun draining =>
            no_drain ⟨allDrained_false_iff.1 before_drained, draining, allDrained_iff.1 drained⟩))
    · exact .inr (.inr (.inr idle))
  · have looks : ∀ t, s.drainEnd = t → exec .quiesceDrainEnd s = .next t := fun t same => congrArg Host.Outcome.next same
    refine ⟨fun drained => ?_, fun busy => looks s ?_⟩
    · rcases drainEnd_cases s with ⟨seq', process', -, -, ends⟩ | ⟨stays, -⟩
      · cases process.symm.trans process'
        exact ⟨_, looks _ ends, rfl, rfl, rfl⟩
      · rcases stays with idle | running | not_drained
        · rw [process] at idle; cases idle
        · exact absurd draining running
        · rw [allDrained_iff.2 drained] at not_drained; cases not_drained
    · rcases drainEnd_cases s with ⟨-, -, -, drained, -⟩ | ⟨-, same⟩
      · rw [allDrained_false_iff.2 busy] at drained; cases drained
      · exact same

/-! ### What changes the bank (R138, R143, R146) -/

theorem endEvent_bank (s before : State) : (s.endEvent before).bank = s.bank := by
  have looked : s.drainEnd.bank = s.bank := by
    rcases drainEnd_cases s with ⟨_, _, _, _, h⟩ | ⟨_, h⟩ <;> rw [h]
  unfold State.endEvent
  split
  · exact (takeReady_changes ..).within.bank
  · exact (takeReady_changes ..).within.bank.trans looked

theorem Rewritten.sameBut {m n : List Host.Cell} {a : PhysAddr} (h : Rewritten m n a) : BankSameBut m n a := by
  rcases h with rfl | ⟨be, d, rfl⟩
  · exact fun _ _ => rfl
  · exact fun k hk => writeWord_same_but m a be d k hk

theorem assertPartReset_sameBut (s : State) : s.assertPartReset.bank = s.bank ∨
    ∃ op, s.memPort.operation = some op ∧ BankSameBut s.bank s.assertPartReset.bank op.address := by
  by_cases reads : ∀ op, s.memPort.operation = some op → op.writes = none
  · exact .inl (assertPartReset_reads reads)
  · push Not at reads
    obtain ⟨op, flight, writes⟩ := reads
    obtain ⟨⟨a, be, d⟩, writes⟩ := Option.ne_none_iff_exists'.1 writes
    refine .inr ⟨op, flight, Rewritten.sameBut ?_⟩
    rw [address_of_writes writes]
    exact (assertPartReset_writes flight writes).imp id fun written => ⟨be, d, written⟩

theorem completes_iff {c : Instr} (h : Instr.completes c = true) : ∃ e, c = .plainAccessCompletion e ∨ c = .viewReadCompletion e ∨
    c = .grantFetchCompletion e ∨ c = .writeBackCompletion e := by
  cases c <;> simp_all [Instr.completes]

/-- Only a completion and part reset reach the bank. -/
theorem Ran.bank {c : Instr} {s t : State} (h : Ran c s t) : t.bank = s.bank ∨
    ((c = .partReset ∨ Instr.completes c = true) ∧
      ∃ op, s.memPort.operation = some op ∧ BankSameBut s.bank t.bank op.address) := by
  cases h with
  | event changes => exact .inl ((endEvent_bank ..).trans changes.within.bank)
  | quiet changes => exact .inl changes.within.bank
  | @completed op u m t completes flight before rewritten after =>
    refine .inr ⟨.inr completes, op, flight, ?_⟩
    have bank : (t.endEvent s).bank = m := (endEvent_bank ..).trans after.within.bank
    rw [bank, ← before.within.bank]
    exact rewritten.sameBut
  | tick first => exact .inl ((endEvent_bank ..).trans (takeTick_within (s.setDivider s.divisor) first).bank)
  | partReset is_reset => exact (assertPartReset_sameBut s).imp id fun same => ⟨.inl is_reset, same⟩
  | released => exact .inl (endEvent_bank ..)
  | resumed => exact .inl (endEvent_bank ..)
  | _ => exact .inl rfl

/-! ### What changes the quiesce state (R164, R165) -/

/-- A drain ended with the event that left every port drained (R164). -/
def DrainEnded (s t : State) : Prop := s.quiesce = .draining ∧ t.quiesce = .quiesced ∧
  (∃ p u, (s.port p).phase = .queued u ∨ (s.port p).phase = .inMemory u) ∧
  ∀ p, (t.port p).phase = .idle ∨ ∃ u, (t.port p).phase = .stalled u

theorem endEvent_quiesce {s u : State} (same : u.quiesce = s.quiesce) :
    (u.endEvent s).quiesce = s.quiesce ∨ DrainEnded s (u.endEvent s) := by
  have taken : (u.takeReady s).quiesce = s.quiesce := (takeReady_changes ..).within.quiesce.trans same
  by_cases drains : s.allDrained = false ∧ u.allDrained = true ∧ u.quiesce = .draining ∧ u.link.process ≠ none
  · obtain ⟨busy, drained, draining, process⟩ := drains
    obtain ⟨seq, process⟩ := Option.ne_none_iff_exists'.1 process
    rw [endEvent_drain busy process draining drained]
    exact .inr ⟨same.symm.trans draining, rfl, allDrained_false_iff.1 busy, allDrained_iff.1 drained⟩
  · rw [endEvent_eq]
    · exact .inl taken
    · cases h : s.allDrained <;> cases g : u.allDrained <;> simp_all
      tauto

/-- The quiesce state changes by QUIESCE, RESUME, the look at the phases, part reset, and the end of an event (R164, R165). -/
theorem Ran.quiesce {c : Instr} {s t : State} (h : Ran c s t) : t.quiesce = s.quiesce ∨ c = .quiesceDrainEnd ∨ c = .partReset ∨
    (Instr.Brings c s .quiesce ∨ Instr.Brings c s .resume) ∨ DrainEnded s t := by
  have ended : ∀ u : State, u.quiesce = s.quiesce → (u.endEvent s).quiesce = s.quiesce ∨ c = .quiesceDrainEnd ∨ c = .partReset ∨
      (Instr.Brings c s .quiesce ∨ Instr.Brings c s .resume) ∨ DrainEnded s (u.endEvent s) := fun u same =>
    (endEvent_quiesce same).imp id fun drained => .inr (.inr (.inr drained))
  cases h with
  | event changes => exact ended _ changes.within.quiesce
  | quiet changes => exact .inl changes.within.quiesce
  | completed _ _ before _ after => exact ended _ (after.within.quiesce.trans before.within.quiesce)
  | tick first => exact ended _ (takeTick_within (s.setDivider s.divisor) first).quiesce
  | partReset is_reset => exact .inr (.inr (.inl is_reset))
  | released => exact ended _ rfl
  | quiesced by_whom => exact .inr (by_whom.imp id fun brings => .inr (.inl (.inl brings)))
  | draining brings => exact .inr (.inr (.inr (.inl (.inl brings))))
  | resumed brings => exact .inr (.inr (.inr (.inl (.inr brings))))
  | _ => exact .inl rfl

/-- The commands that bring a frame of QUIESCE or RESUME. -/
theorem brings_by_code {c : Instr} {s : State} {cmd : Command} (is_quiesce : cmd = .quiesce ∨ cmd = .resume)
    (brings : Instr.Brings c s cmd) :
    (∃ seq, c = .quiesce seq ∨ c = .resume seq) ∨
      (∃ code seq payload, c = .unknownCommand code seq payload ∧ (code = 0x07 ∨ code = 0x08)) ∨
      (∃ bytes : List Byte, (c = .frame bytes ∨ ∃ extra, c = .selection (.whole bytes extra)) ∧
        (bytes.head? = some 0x07 ∨ bytes.head? = some 0x08)) ∨
      (c = .selection .release ∧ ∃ sel, s.link.selection = some sel ∧
        ((bytesOf sel.received).head? = some 0x07 ∨ (bytesOf sel.received).head? = some 0x08)) := by
  have named : Command.code cmd = 0x07 ∨ Command.code cmd = 0x08 :=
    is_quiesce.imp (congrArg Command.code) (congrArg Command.code)
  have first : ∀ bytes : List Byte, bytes.head? = some (Command.code cmd) → bytes.head? = some 0x07 ∨ bytes.head? = some 0x08 :=
    fun bytes head => named.imp (fun code => head.trans (congrArg some code)) fun code => head.trans (congrArg some code)
  rcases brings with ⟨seq, row⟩ | ⟨code, seq, payload, row, command⟩ | ⟨bytes, rows, head⟩ | ⟨row, sel, selected, head⟩
  · exact .inl ⟨seq, is_quiesce.imp (fun same => by rw [row, same]; rfl) fun same => by rw [row, same]; rfl⟩
  · exact .inr (.inl ⟨code, seq, payload, row, commandOfFrame_code command ▸ named⟩)
  · exact .inr (.inr (.inl ⟨bytes, rows, first bytes head⟩))
  · exact .inr (.inr (.inr ⟨row, sel, selected, first _ head⟩))

/-- Settles O46: of all the cases of `Ran` these alone write the bank or the quiesce state. -/
theorem bankAndQuiesceStateChangeOnlyByTheirCommands : Obligations.BankAndQuiesceStateChangeOnlyByTheirCommands := by
  refine ⟨fun s t c h => ?_, fun s t c h changed => ?_⟩
  · exact (exec_ran h).bank.imp id fun ⟨by_whom, rewritten⟩ => ⟨by_whom.imp id completes_iff, rewritten⟩
  · rcases (exec_ran h).quiesce with same | look | is_reset | brings | drained
    · exact absurd same changed
    · exact .inl look
    · exact .inr (.inl is_reset)
    · have by_code := brings.elim (brings_by_code (.inl rfl)) (brings_by_code (.inr rfl))
      rcases by_code with row | unknown | bytes | release
      · exact .inr (.inr (.inl row))
      · exact .inr (.inr (.inr (.inl unknown)))
      · exact .inr (.inr (.inr (.inr (.inl bytes))))
      · exact .inr (.inr (.inr (.inr (.inr (.inl release)))))
    · exact .inr (.inr (.inr (.inr (.inr (.inr drained)))))

end Sys2Proof.Machine
end

section
/-! The statements on selections and on the checks of a frame (sections 11.1 and 11.2). -/

namespace Sys2Proof.Machine

/-! ### The length that a command requires (R160) -/

theorem commandOfFrame_none (code : Byte) (payload : List Byte) : commandOfFrame code payload = none ↔ LengthWrong code payload := by
  have named : ∀ n : Byte, code.toNat = n.toNat → code = n := fun n => BitVec.eq_of_toNat_eq
  unfold commandOfFrame
  split
  next h => obtain rfl := named 0x01 h; cases payload <;> simp [LengthWrong]
  next h =>
    obtain rfl := named 0x02 h
    rcases payload with _ | ⟨port, _ | ⟨count, records⟩⟩ <;> simp [LengthWrong]
    omega
  next h => obtain rfl := named 0x03 h; rcases payload with _ | ⟨_, _ | _⟩ <;> simp [LengthWrong]
  next h => obtain rfl := named 0x04 h; rcases payload with _ | ⟨_, _ | _⟩ <;> simp [LengthWrong]
  next h => obtain rfl := named 0x05 h; rcases payload with _ | ⟨_, _ | ⟨_, _ | _⟩⟩ <;> simp [LengthWrong]
  next h => obtain rfl := named 0x06 h; rcases payload with _ | ⟨_, _ | _⟩ <;> simp [LengthWrong]
  next h => obtain rfl := named 0x07 h; cases payload <;> simp [LengthWrong]
  next h => obtain rfl := named 0x08 h; cases payload <;> simp [LengthWrong]
  next h => obtain rfl := named 0x09 h; rcases payload with _ | ⟨_, _ | ⟨_, _ | _⟩⟩ <;> simp [LengthWrong]
  next h =>
    obtain rfl := named 0x0A h
    rcases payload with _ | ⟨_, _ | ⟨_, _ | ⟨_, _ | ⟨_, _ | ⟨_, _ | _⟩⟩⟩⟩⟩ <;> simp [LengthWrong]
  next h => obtain rfl := named 0x0B h; rcases payload with _ | ⟨_, _ | _⟩ <;> simp [LengthWrong]
  next h => obtain rfl := named 0x0C h; rcases payload with _ | ⟨_, _ | _⟩ <;> simp [LengthWrong]
  next h => obtain rfl := named 0x0D h; rcases payload with _ | ⟨_, _ | ⟨_, _ | _⟩⟩ <;> simp [LengthWrong]
  next h1 h2 h3 h4 h5 h6 h7 h8 h9 h10 h11 h12 h13 =>
    have unlisted : ∀ n : Byte, n.toNat ∈ [1, 2, 3, 4, 5, 6, 7, 8, 9, 10, 11, 12, 13] → code ≠ n := by
      rintro n listed rfl
      simp only [List.mem_cons, List.not_mem_nil, or_false] at listed
      rcases listed with h | h | h | h | h | h | h | h | h | h | h | h | h
      exacts [h1 h, h2 h, h3 h, h4 h, h5 h, h6 h, h7 h, h8 h, h9 h, h10 h, h11 h, h12 h, h13 h]
    simp [LengthWrong, unlisted]

/-! ### The checks of a frame (R157) -/

section
variable {s : State} (running : s.partReset = false)
include running

theorem takeFrame_wrong (idle : s.link.process = none) (seq : Byte) : s.takeFrame seq none = s.setOutcome .rejectedLength := by
  simp [State.takeFrame, running, idle]

theorem receive_none (rest : List Byte) : s.receive [] = s ∧ s.receive (0 :: rest) = s := by
  simp [State.receive, running]

variable {code : Byte} (named : code ≠ 0)
include named

theorem receive_short {rest : List Byte} (short : rest.length < 2) :
    s.receive (code :: rest) = s.setOutcome .rejectedLength := by
  rcases rest with _ | ⟨seq, _ | ⟨n, body⟩⟩
  · unfold State.receive
    exact (if_neg (by rw [running]; exact Bool.false_ne_true)).trans (if_neg named)
  · unfold State.receive
    exact (if_neg (by rw [running]; exact Bool.false_ne_true)).trans (if_neg named)
  · simp only [List.length_cons] at short
    omega

/-- A frame with a length byte is checked for its length and its sum, and then taken. -/
theorem receive_long (seq n : Byte) (body : List Byte) : s.receive (code :: seq :: n :: body) =
    if 250 < n.toNat ∨ body.length ≤ n.toNat then s.setOutcome .rejectedLength
    else if (code :: seq :: n :: body.take (n.toNat + 1)).sum ≠ 0 then s.setOutcome .rejectedCheck
    else s.takeFrame seq (commandOfFrame code (body.take n.toNat)) := by
  simp only [State.receive, running, named, Bool.false_eq_true, if_false, Bool.or_eq_true, decide_eq_true_eq]
  rfl

/-- A frame of a good length, with the bytes beyond its check byte. -/
theorem receive_checked {seq n : Byte} {payload : List Byte} (check : Byte) (beyond : List Byte) (low : n.toNat ≤ 250)
    (length : payload.length = n.toNat) : s.receive (code :: seq :: n :: payload ++ check :: beyond) =
      if (code :: seq :: n :: payload ++ [check]).sum ≠ 0 then s.setOutcome .rejectedCheck
      else s.takeFrame seq (commandOfFrame code payload) := by
  have front : (payload ++ check :: beyond).take (n.toNat + 1) = payload ++ [check] := by
    rw [← length, List.take_length_add_append]
    rfl
  have fits : ¬ (250 < n.toNat ∨ (payload ++ check :: beyond).length ≤ n.toNat) := by
    rw [List.length_append, List.length_cons]
    omega
  simp only [List.cons_append]
  rw [receive_long running named, if_neg fits, front, ← length, List.take_left]

end

/-- Settles O37: the checks come in this order, and what passes them is accepted. -/
theorem frameChecksRejectInOrder : Obligations.FrameChecksRejectInOrder := by
  intro s running
  have run : ∀ {bytes t}, s.receive bytes = t → exec (.frame bytes) s = .next t := fun same => congrArg Host.Outcome.next same
  refine ⟨fun rest => ?_, fun code named rest short => run (receive_short running named short),
    fun code seq n body named bad => run ?_, fun code seq n payload check beyond named low length => ?_⟩
  · obtain ⟨empty, zero⟩ := receive_none running rest
    exact ⟨run empty, run zero⟩
  · rw [receive_long running named, if_pos bad]
    rfl
  · have checked := receive_checked running named (seq := seq) check beyond low length
    refine ⟨fun bad => run ?_, fun good busy => run ?_, fun good idle wrong => run ?_, fun good idle right => ?_⟩
    · rw [checked, if_pos bad]
      rfl
    · rw [checked, if_neg (not_not.2 good), takeFrame_busy running busy]
      rfl
    · rw [checked, if_neg (not_not.2 good), (commandOfFrame_none code payload).2 wrong, takeFrame_wrong running idle]
      rfl
    · obtain ⟨cmd, command⟩ := Option.ne_none_iff_exists'.1 fun none => right ((commandOfFrame_none code payload).1 none)
      have takes : s.LinkTakes := ⟨running, idle⟩
      refine ⟨_, run checked, ?_⟩
      rw [if_neg (not_not.2 good), command, takeFrame_accepted takes]
      exact (carryOut_answers (s := s.accepted) rfl idle rfl seq cmd).1

/-! ### The output of a selection (R155) -/

/-- The state after a selection of `n` bytes and `extra` bits whose input is not taken: what it shifted out, and the slot, which is
EMPTY where the response was shifted out whole. -/
def State.shiftedOut (s : State) (n extra : Nat) : State := s.setLink { s.link with
  selection := none
  sdo := s.newSelection.bits (8 * n + extra)
  slot := if 1 + (s.link.slot.elim [] Response.bytes).length ≤ n then none else s.link.slot }

theorem received_length (bytes : List Byte) (further : List Bool) :
    (bitsOf bytes ++ further).length = 8 * bytes.length + further.length := by
  rw [List.length_append, bitsOf_length]

theorem output_length (sel : Selection) : sel.output.length = 8 * (1 + (sel.response.elim [] Response.bytes).length) := by
  rw [Selection.output, List.length_append, bitsOf_length, byteBits_length]
  omega

/-- At the end of a selection that was not disregarded its input is taken, after the response was settled. -/
theorem endSelection_received {s u : State} (running : s.partReset = false) {bytes : List Byte}
    {further : List Bool} (few : further.length < 8) {selection : Option Selection}
    (clocked : u = s.setSelection selection (s.newSelection.bits (8 * bytes.length + further.length))) :
    u.endSelection { s.newSelection with received := bitsOf bytes ++ further } =
      (s.shiftedOut bytes.length further.length).receive bytes := by
  have length : (bitsOf bytes ++ further).length = 8 * bytes.length + further.length := received_length bytes further
  have settled : (u.setSelection none u.link.sdo).settleOutput { s.newSelection with received := bitsOf bytes ++ further } =
      s.shiftedOut bytes.length further.length := by
    have link : (u.setSelection none u.link.sdo) =
        s.setLink { s.link with selection := none, sdo := s.newSelection.bits (8 * bytes.length + further.length) } := by
      rw [clocked]
      rfl
    rw [link]
    have in_full : ({ s.newSelection with received := bitsOf bytes ++ further } : Selection).sentInFull =
        (s.link.slot.isSome && decide (1 + (s.link.slot.elim [] Response.bytes).length ≤ bytes.length)) := by
      rw [Selection.sentInFull, output_length, length]
      refine congrArg₂ and rfl (decide_eq_decide.2 ?_)
      change 8 * (1 + (s.link.slot.elim [] Response.bytes).length) ≤ _ ↔ _
      omega
    unfold State.settleOutput State.shiftedOut
    rw [in_full]
    cases slot : s.link.slot with
    | none =>
      refine (if_neg (by simp)).trans ?_
      rw [ite_self]
      exact congrArg (fun x => s.setLink { s.link with selection := none, sdo := _, slot := x }) slot
    | some r =>
      by_cases whole : 1 + r.bytes.length ≤ bytes.length
      · refine (if_pos (by simp [whole, slot, State.newSelection])).trans ?_
        rw [Option.elim_some, if_pos whole]
        rfl
      · refine (if_neg (by simp [whole])).trans ?_
        rw [Option.elim_some, if_neg whole, ← slot]
  rw [State.endSelection]
  refine (if_neg (by simp [State.newSelection, running])).trans ?_
  rw [settled, bytesOf_bitsOf bytes further few]

end Sys2Proof.Machine
end

section
/-! The statements on what a selection shifts out, and on its two forms (R155, R156). -/

namespace Sys2Proof.Machine

/-! ### The whole selection as one command -/

section
variable {s : State} {bytes : List Byte} {extra : Nat} (unselected : s.link.selection = none)
include unselected

theorem wholeSelection_received (running : s.partReset = false) (few : extra < 8) :
    s.wholeSelection bytes extra = (s.shiftedOut bytes.length extra).receive bytes := by
  have counted : s.newSelection.disregarded = false := running
  have length : (bitsOf bytes ++ List.replicate extra false).length = 8 * bytes.length + extra := by
    rw [received_length, List.length_replicate]
  have ended := endSelection_received running (further := List.replicate extra false) (bytes := bytes)
    (by simpa using few) (selection := none) rfl
  rw [List.length_replicate] at ended
  unfold State.wholeSelection
  rw [unselected]
  change State.endSelection (s.setSelection none (if s.newSelection.disregarded = true then [] else
    s.newSelection.bits (bitsOf bytes ++ List.replicate extra false).length)) _ = _
  rw [if_neg (by rw [counted]; exact Bool.false_ne_true), length]
  exact ended

theorem wholeSelection_disregarded (held : s.partReset = true) : s.wholeSelection bytes extra = s.setSelection none [] := by
  have disregarded : s.newSelection.disregarded = true := held
  unfold State.wholeSelection
  rw [unselected]
  simp only [disregarded, if_true, State.endSelection]
  rfl

end

/-! ### The selection event by event -/

theorem execAll_cons {c : Instr} {l : List Instr} {s u : State} (first : exec c s = .next u) :
    execAll (c :: l) s = execAll l u := by
  rw [execAll, first]

theorem execAll_append {l m : List Instr} {s t : State} (run : execAll l s = .next t) : execAll (l ++ m) s = execAll m t := by
  induction l generalizing s with
  | nil =>
    cases run
    rfl
  | cons c l ih =>
    cases first : exec c s with
    | next u =>
      rw [execAll_cons first] at run
      exact (execAll_cons first).trans (ih run)
    | fault r =>
      rw [execAll, first] at run
      cases run
    | refused r =>
      rw [execAll, first] at run
      cases run

/-- The state in which a selection that began in `s` has received the bits `l`. -/
def State.clocked (s : State) (l : List Bool) : State :=
  s.setSelection (some { s.newSelection with received := l }) (s.newSelection.bits l.length)

section
variable {s : State}

theorem select_clocked (unselected : s.link.selection = none) : s.select = s.clocked [] := by
  rw [State.select, unselected]
  rfl

theorem clockBit_clocked (running : s.partReset = false) (l : List Bool) (b : Bool) :
    (s.clocked l).clockBit b = s.clocked (l ++ [b]) := by
  have counted : s.newSelection.disregarded = false := running
  have bits : s.newSelection.bits (l ++ [b]).length = s.newSelection.bits l.length ++ [s.newSelection.bit l.length] := by
    rw [Selection.bits, List.length_append, List.length_singleton, List.range_succ, List.map_append]
    rfl
  rw [State.clocked, State.clocked, bits, State.clockBit]
  simp only [State.setSelection, setLink_link, counted, Bool.false_eq_true, if_false]
  rfl

theorem clockBit_disregarded (held : s.partReset = true) (b : Bool) : (s.clocked []).clockBit b = s.clocked [] := by
  have disregarded : s.newSelection.disregarded = true := held
  rw [State.clocked, State.clockBit]
  simp only [State.setSelection, setLink_link, disregarded, if_true]

theorem execAll_clocks (running : s.partReset = false) (l bits : List Bool) :
    execAll (bits.map fun b => .selection (.clock b)) (s.clocked l) = .next (s.clocked (l ++ bits)) := by
  induction bits generalizing l with
  | nil => rw [List.append_nil]; rfl
  | cons b bits ih =>
    have first : exec (.selection (.clock b)) (s.clocked l) = .next (s.clocked (l ++ [b])) :=
      congrArg Host.Outcome.next (clockBit_clocked running l b)
    rw [List.map_cons, execAll_cons first, ih, List.append_assoc]
    rfl

theorem execAll_clocks_disregarded (held : s.partReset = true) (bits : List Bool) :
    execAll (bits.map fun b => .selection (.clock b)) (s.clocked []) = .next (s.clocked []) := by
  induction bits with
  | nil => rfl
  | cons b bits ih =>
    have first : exec (.selection (.clock b)) (s.clocked []) = .next (s.clocked []) :=
      congrArg Host.Outcome.next (clockBit_disregarded held b)
    exact (execAll_cons first).trans ih

/-- Select, clock periods and release, after the clock periods. -/
theorem execAll_selection {bits : List Bool} {u : State} (unselected : s.link.selection = none)
    (clocks : execAll (bits.map fun b => .selection (.clock b)) (s.clocked []) = .next u) :
    execAll (.selection .select :: (bits.map fun b => .selection (.clock b)) ++ [.selection .release]) s = .next u.release := by
  have selects : exec (.selection .select) s = .next (s.clocked []) := congrArg Host.Outcome.next (select_clocked unselected)
  have whole : execAll (.selection .select :: bits.map fun b => .selection (.clock b)) s = .next u :=
    (execAll_cons selects).trans clocks
  exact execAll_append whole

theorem release_clocked (l : List Bool) : (s.clocked l).release = (s.clocked l).endSelection { s.newSelection with received := l } := rfl

end

/-- Settles O36: each event adds a bit to what is received and to what is shifted out, and the output does not depend on the
input. -/
theorem selectionIsItsEventsAndItsFrame : Obligations.SelectionIsItsEventsAndItsFrame := by
  refine ⟨fun s bytes further unselected few => ?_, fun s bytes extra running unselected few => ?_⟩
  · have whole : exec (.selection (.whole bytes further.length)) s = .next (s.wholeSelection bytes further.length) := rfl
    rw [whole]
    cases reset : s.partReset with
    | true =>
      rw [execAll_selection unselected (execAll_clocks_disregarded reset _), wholeSelection_disregarded unselected reset,
        release_clocked, State.endSelection]
      exact congrArg Host.Outcome.next (if_pos reset)
    | false =>
      rw [execAll_selection unselected (execAll_clocks reset [] _), wholeSelection_received unselected reset few, release_clocked]
      have clocked : s.clocked (bitsOf bytes ++ further) = s.setSelection (some { s.newSelection with received := bitsOf bytes ++ further })
          (s.newSelection.bits (8 * bytes.length + further.length)) := by
        rw [State.clocked, received_length]
      exact congrArg Host.Outcome.next (endSelection_received reset few clocked)
  · have taken : ∀ l : List Byte, exec (.selection (.whole l extra)) s = .next ((s.shiftedOut l.length extra).receive l) :=
      fun l => congrArg Host.Outcome.next (wholeSelection_received unselected running few)
    have zeros : (s.shiftedOut bytes.length extra).receive (bytes.map fun _ => 0) = s.shiftedOut bytes.length extra := by
      cases bytes with
      | nil => exact (receive_none (s := s.shiftedOut _ extra) running []).1
      | cons b rest => exact (receive_none (s := s.shiftedOut _ extra) running _).2
    refine ⟨s.shiftedOut bytes.length extra, (taken _).trans ?_, taken bytes⟩
    rw [List.length_map, zeros]

/-! ### What is shifted out -/

/-- The first bits of an output that zeros follow. -/
theorem bits_eq_take (sel : Selection) (n : Nat) : sel.bits n = (sel.output ++ List.replicate n false).take n := by
  refine List.ext_getElem (by simp [Selection.bits]) fun k hk _ => ?_
  rw [Selection.bits, List.length_map, List.length_range] at hk
  simp only [Selection.bits, List.getElem_map, List.getElem_range, List.getElem_take, Selection.bit, List.getD_eq_getElem?_getD]
  rw [List.getElem_append]
  split
  next inside => rw [List.getElem?_eq_getElem inside]; rfl
  next outside => rw [List.getElem?_eq_none (not_lt.1 outside), List.getElem_replicate]; rfl

/-- The fields of the link status byte (R159). -/
theorem statusByte_fields (process ready : Bool) (outcome : BitVec 3) :
    let b : Byte := BitVec.ofBool process ++ BitVec.ofBool ready ++ (0 : BitVec 3) ++ outcome
    b.getLsbD 7 = process ∧ b.getLsbD 6 = ready ∧ b.extractLsb' 3 3 = 0 ∧ b.extractLsb' 0 3 = outcome := by
  revert process ready outcome
  decide

theorem byteBits_place (b : Byte) {k : Nat} (place : k < 8) : (byteBits b)[k]? = some (b.getLsbD (7 - k)) := by
  match k, place with
  | 0, _ | 1, _ | 2, _ | 3, _ | 4, _ | 5, _ | 6, _ | 7, _ => rfl

/-- Settles O35: a selection without a frame is its output alone. -/
theorem selectionShiftsResponseOut : Obligations.SelectionShiftsResponseOut := by
  refine ⟨fun b k => byteBits_place b, fun s bytes extra running unselected no_frame few => ?_⟩
  have silent : (s.shiftedOut bytes.length extra).receive bytes = s.shiftedOut bytes.length extra := by
    rcases no_frame with rfl | first
    · exact (receive_none (s := s.shiftedOut _ extra) running []).1
    · cases bytes with
      | nil => cases first
      | cons b rest =>
        obtain rfl := Option.some.inj first
        exact (receive_none (s := s.shiftedOut _ extra) running rest).2
  obtain ⟨process, ready, zeros, outcome⟩ := statusByte_fields s.link.process.isSome s.link.slot.isSome s.link.outcome.code
  refine ⟨s.shiftedOut bytes.length extra, congrArg Host.Outcome.next ((wholeSelection_received unselected running few).trans silent),
    rfl, s.link.statusByte, process, ready, zeros, outcome, bits_eq_take .., rfl, ?_⟩
  change { s.link with selection := none } = s.link
  rw [← unselected]

end Sys2Proof.Machine
end

section
/-! The statements on the words at the ports, the bytes at the link, and full queues (Chapters 7, 10 and 12). -/

namespace Sys2Proof.Machine

/-! ### Words (section 12.1) -/

theorem portBits_toNat (p : Port) : (portBits p).toNat = p.val := by
  rw [portBits, BitVec.toNat_ofNat]
  omega

/-- The fields of a reply word, from the top. -/
theorem replyWord_fields (code : BitVec 4) (port count : BitVec 2) (ticket : Ticket) (payload : Payload) :
    let w : Word := code ++ port ++ count ++ ticket ++ payload
    w.extractLsb' 28 4 = code ∧ w.extractLsb' 26 2 = port ∧ w.extractLsb' 24 2 = count ∧ w.extractLsb' 16 8 = ticket ∧
      w.extractLsb' 0 16 = payload := by
  have low : ∀ k len, (code ++ port ++ count ++ ticket ++ payload).extractLsb' (16 + (8 + k)) len =
      (code ++ port ++ count).extractLsb' k len := fun k len => (extract_upper _ payload (8 + k) len).trans (extract_upper _ ticket k len)
  refine ⟨(low 4 4).trans ?_, (low 2 2).trans ?_, (low 0 2).trans ?_, (extract_upper _ payload 0 8).trans ?_, ?_⟩
  · exact (extract_upper _ count 2 4).trans ((extract_upper code port 0 4).trans BitVec.extractLsb'_eq_self)
  · exact (extract_upper _ count 0 2).trans ((extract_lower code port le_rfl).trans BitVec.extractLsb'_eq_self)
  · exact (extract_lower _ count le_rfl).trans BitVec.extractLsb'_eq_self
  · exact (extract_lower _ ticket le_rfl).trans BitVec.extractLsb'_eq_self
  · exact (extract_lower _ payload le_rfl).trans BitVec.extractLsb'_eq_self

/-- The fields of a notice word, from the top. -/
theorem noticeWord_fields (code : BitVec 4) (port : BitVec 2) (bits : BitVec 4) (address : PhysAddr) :
    let w : Word := code ++ port ++ bits ++ address
    w.extractLsb' 28 4 = code ∧ w.extractLsb' 26 2 = port ∧ w.extractLsb' 22 4 = bits ∧ w.extractLsb' 0 22 = address := by
  have low : ∀ k len, (code ++ port ++ bits ++ address).extractLsb' (22 + (4 + k)) len = (code ++ port).extractLsb' k len :=
    fun k len => (extract_upper _ address (4 + k) len).trans (extract_upper _ bits k len)
  refine ⟨(low 2 4).trans ?_, (low 0 2).trans ?_, (extract_upper _ address 0 4).trans ?_, ?_⟩
  · exact (extract_upper code port 0 4).trans BitVec.extractLsb'_eq_self
  · exact (extract_lower code port le_rfl).trans BitVec.extractLsb'_eq_self
  · exact (extract_lower _ bits le_rfl).trans BitVec.extractLsb'_eq_self
  · exact (extract_lower _ address le_rfl).trans BitVec.extractLsb'_eq_self

/-- Settles O52: each word is its fields one after another. -/
theorem wordFieldsAtMasterPorts : Obligations.WordFieldsAtMasterPorts := by
  refine ⟨fun o p n ticket payload few => ?_, fun n => ?_, rfl, fun _ => rfl⟩
  · obtain ⟨code, port, count, ticket_field, payload_field⟩ := replyWord_fields o.code (portBits p) (BitVec.ofNat 2 n) ticket payload
    refine ⟨code, (congrArg BitVec.toNat port).trans (portBits_toNat p), (congrArg BitVec.toNat count).trans ?_, ticket_field,
      payload_field, rfl⟩
    rw [BitVec.toNat_ofNat]
    omega
  · obtain ⟨code, port, bits, address⟩ := noticeWord_fields n.kind.code (portBits n.other) n.ticketBits n.address
    exact ⟨code, (congrArg BitVec.toNat port).trans (portBits_toNat n.other), bits, address, rfl, rfl, rfl⟩

/-! ### Bytes as numbers -/

theorem toNat_append_eq {v w : Nat} (x : BitVec v) (y : BitVec w) : (x ++ y).toNat = x.toNat * 2 ^ w + y.toNat := by
  rw [BitVec.toNat_append, Nat.shiftLeft_eq, Nat.mul_comm, Nat.two_pow_add_eq_or_of_lt y.isLt]

theorem extract_toNat {v : Nat} (x : BitVec v) (k : Nat) : (x.extractLsb' k 8).toNat = x.toNat / 2 ^ k % 256 := by
  rw [BitVec.extractLsb'_toNat, Nat.shiftRight_eq_div_pow]

theorem bytes16_toNat (x : BitVec 16) : (bytes16 x).map BitVec.toNat = [x.toNat / 256, x.toNat % 256] := by
  simp only [bytes16, List.map_cons, List.map_nil, extract_toNat, List.cons.injEq, and_true]
  omega

theorem bytes24_toNat (x : BitVec 24) :
    (bytes24 x).map BitVec.toNat = [x.toNat / 65536, x.toNat / 256 % 256, x.toNat % 256] := by
  simp only [bytes24, List.map_cons, List.map_nil, extract_toNat, List.cons.injEq, and_true]
  omega

theorem bytes32_toNat (x : BitVec 32) :
    (bytes32 x).map BitVec.toNat = [x.toNat / 16777216, x.toNat / 65536 % 256, x.toNat / 256 % 256, x.toNat % 256] := by
  simp only [bytes32, List.map_cons, List.map_nil, extract_toNat, List.cons.injEq, and_true]
  omega

theorem setWidth24_toNat {v : Nat} (narrow : v ≤ 24) (x : BitVec v) : (x.setWidth 24).toNat = x.toNat :=
  BitVec.toNat_setWidth_of_le narrow

theorem ofBool_toNat (b : Bool) : (BitVec.ofBool b).toNat = if b then 1 else 0 := by
  cases b <;> rfl

theorem countByte_toNat {n : Nat} (small : n < 256) : (countByte n).toNat = n := by
  rw [countByte, BitVec.toNat_ofNat]
  omega

/-! ### The CLAIM-LIST record (section 12.4) -/

theorem portByte_toNat (mark : BitVec 2) (p : Port) : (portByte mark p).toNat = 128 + 16 * mark.toNat + p.val := by
  simp only [portByte, toNat_append_eq, portBits_toNat, BitVec.ofNat_eq_ofNat, BitVec.toNat_ofNat]
  omega

theorem stateByte_toNat (lease : Bool) (writeBack : BitVec 2) {n : Nat} (few : n ≤ 3) :
    (stateByte lease writeBack n).toNat = (if lease then 128 else 0) + 16 * writeBack.toNat + n := by
  simp only [stateByte, toNat_append_eq, ofBool_toNat, BitVec.toNat_ofNat]
  cases lease <;> simp <;> omega

theorem waiterByte_toNat (w : Waiter) : w.byte.toNat = 128 + (if w.waits then 4 else 0) + w.port.val := by
  obtain ⟨p, mode, lease⟩ := w
  cases mode <;>
    simp only [Waiter.byte, toNat_append_eq, portBits_toNat, BitVec.ofNat_eq_ofNat, BitVec.toNat_ofNat, Waiter.waits] <;> rfl

theorem waiterBytes_toNat {l : List Waiter} (few : l.length ≤ 3) : (waiterBytes l).map BitVec.toNat =
    (l.map fun w => 128 + (if w.waits then 4 else 0) + w.port.val) ++ List.replicate (3 - l.length) 0 := by
  rcases l with _ | ⟨a, _ | ⟨b, _ | ⟨c, _ | ⟨d, rest⟩⟩⟩⟩
  · rfl
  · simp [waiterBytes, waiterByte_toNat, List.replicate]
  · simp [waiterBytes, waiterByte_toNat]
  · simp [waiterBytes, waiterByte_toNat]
  · simp only [List.length_cons] at few
    omega

/-- The numbers of a field of three bytes that holds an address of a word. -/
def addressNumbers (x : PhysAddr) : List Nat := [x.toNat / 65536, x.toNat / 256 % 256, x.toNat % 256]

theorem address_toNat (x : PhysAddr) : (bytes24 (x.setWidth 24)).map BitVec.toNat = addressNumbers x := by
  rw [bytes24_toNat, setWidth24_toNat (by decide)]
  rfl

theorem claimRecord_numbers (i : Slot) (e : Entry) : (claimRecord i e).map BitVec.toNat =
    [i.val, e.stateCode.toNat] ++ e.recordTail.map BitVec.toNat := by
  rw [claimRecord, List.map_cons, List.map_cons, countByte_toNat (by omega)]
  rfl

theorem held_numbers {h : HeldEntry} (few : h.waiters.length ≤ 3) : (Entry.held h).recordTail.map BitVec.toNat =
    addressNumbers h.address ++ [128 + h.holder.val, h.ticket.toNat, h.payload.toNat / 256, h.payload.toNat % 256,
      (h.lease.elim 0 Lease.remaining).toNat / 256, (h.lease.elim 0 Lease.remaining).toNat % 256,
      (if h.lease = none then 0 else 128) + (if h.writeBack = none then 0 else 32) + h.waiters.length] ++
    (h.waiters.map fun w => 128 + (if w.waits then 4 else 0) + w.port.val) ++ List.replicate (3 - h.waiters.length) 0 := by
  have state : (stateByte h.lease.isSome (if h.writeBack.isSome then 2 else 0) h.waiters.length).toNat =
      (if h.lease = none then 0 else 128) + (if h.writeBack = none then 0 else 32) + h.waiters.length := by
    rw [stateByte_toNat _ _ few]
    cases h.lease <;> cases h.writeBack <;> rfl
  simp only [Entry.recordTail, List.map_append, List.map_cons, List.map_nil, address_toNat, bytes16_toNat, portByte_toNat, state,
    waiterBytes_toNat few, List.append_assoc]
  simp

theorem retiring_numbers (r : RetiringEntry) : (Entry.retiring r).recordTail.map BitVec.toNat =
    addressNumbers r.address ++ [0, r.ticket.toNat, r.payload.toNat / 256, r.payload.toNat % 256, 0, 0,
      if r.writeBack = none then 16 else 32, 0, 0, 0] := by
  have state : (stateByte false (if r.writeBack.isSome then 2 else 1) 0).toNat = if r.writeBack = none then 16 else 32 := by
    rw [stateByte_toNat _ _ (Nat.zero_le 3)]
    cases r.writeBack <;> rfl
  simp only [Entry.recordTail, List.map_append, List.map_cons, List.map_nil, address_toNat, bytes16_toNat, state, List.append_assoc]
  rfl

theorem fetching_numbers (a : PhysAddr) (p : Port) (mark : OrphanMark) : (Entry.fetching a p mark).recordTail.map BitVec.toNat =
    addressNumbers a ++ [128 + 16 * mark.code.toNat + p.val, 0, 0, 0, 0, 0, 0, 0, 0, 0] := by
  simp only [Entry.recordTail, List.map_append, List.map_cons, List.map_nil, address_toNat, portByte_toNat, List.append_assoc]
  rfl

theorem quarantined_numbers (a : PhysAddr) (k : Ticket) (w : Payload) : (Entry.quarantined a k w).recordTail.map BitVec.toNat =
    addressNumbers a ++ [0, k.toNat, w.toNat / 256, w.toNat % 256, 0, 0, 0, 0, 0, 0] := by
  simp only [Entry.recordTail, List.map_append, List.map_cons, List.map_nil, address_toNat, bytes16_toNat, List.append_assoc]
  rfl

/-! ### The fault record (section 12.4) -/

theorem faultFlags_toNat (ticket physical logical port : Bool) (access number : BitVec 2) :
    (BitVec.ofBool ticket ++ BitVec.ofBool physical ++ BitVec.ofBool logical ++ access ++ BitVec.ofBool port ++ number).toNat =
      (if ticket then 128 else 0) + (if physical then 64 else 0) + (if logical then 32 else 0) + 8 * access.toNat +
        ((if port then 4 else 0) + number.toNat) := by
  simp only [toNat_append_eq, ofBool_toNat]
  cases ticket <;> cases physical <;> cases logical <;> cases port <;> simp <;> omega

/-- The number of an address field, or 0 where the field is absent. -/
theorem optional_address_toNat {v : Nat} (narrow : v ≤ 24) (x : Option (BitVec v)) :
    (bytes24 ((x.getD 0).setWidth 24)).map BitVec.toNat =
      [(x.getD 0).toNat / 65536, (x.getD 0).toNat / 256 % 256, (x.getD 0).toNat % 256] := by
  rw [bytes24_toNat, setWidth24_toNat narrow]

theorem isSome_ite {α : Type} (x : Option α) (n : Nat) [Decidable (x = none)] :
    (if x.isSome then n else 0) = if x = none then 0 else n := by
  cases x <;> simp

theorem faultRecord_numbers (r : FaultRecord) : r.bytes.map BitVec.toNat =
    [r.kind.code.toNat, (if r.ticket = none then 0 else 128) + (if r.physical = none then 0 else 64) +
        (if r.logical = none then 0 else 32) + 8 * r.access.code.toNat + r.port.elim 0 (fun p => 4 + p.val),
      (r.logical.getD 0).toNat / 65536, (r.logical.getD 0).toNat / 256 % 256, (r.logical.getD 0).toNat % 256,
      (r.physical.getD 0).toNat / 65536, (r.physical.getD 0).toNat / 256 % 256, (r.physical.getD 0).toNat % 256,
      (r.ticket.getD 0).toNat] := by
  have port : (if r.port = none then 0 else 4) + (r.port.elim 0 portBits).toNat = r.port.elim 0 fun p => 4 + p.val := by
    cases r.port with
    | none => rfl
    | some p => exact congrArg (4 + ·) (portBits_toNat p)
  simp only [FaultRecord.bytes, List.map_append, List.map_cons, List.map_nil, faultFlags_toNat, isSome_ite, port]
  rw [optional_address_toNat (by decide), optional_address_toNat (by decide)]
  rfl

/-! ### Responses and frames (R157, R158, section 12.3) -/

theorem sum_toNat (l : List Byte) : (l.map BitVec.toNat).sum % 256 = (byteSum l).toNat := by
  induction l with
  | nil => rfl
  | cons b l ih =>
    have step : byteSum (b :: l) = b + byteSum l := rfl
    rw [List.map_cons, List.sum_cons, step, BitVec.toNat_add, ← ih]
    omega

/-- A run of bytes with its check byte: the numbers, and their sum (R157, R158). -/
theorem checked_numbers (code seq : Byte) {payload : List Byte} (length : payload.length < 256) :
    let bytes := (code :: seq :: countByte payload.length :: payload) ++ [checkByte (code :: seq :: countByte payload.length :: payload)]
    ∃ check : Nat, bytes.map BitVec.toNat = [code.toNat, seq.toNat, payload.length] ++ payload.map BitVec.toNat ++ [check] ∧
      check < 256 ∧ (bytes.map BitVec.toNat).sum % 256 = 0 := by
  refine ⟨(checkByte (code :: seq :: countByte payload.length :: payload)).toNat, ?_, BitVec.isLt _, ?_⟩
  · simp only [List.map_append, List.map_cons, List.map_nil, countByte_toNat length]
    rfl
  · rw [sum_toNat, byteSum_check]
    rfl

/-- Settles O53: each run of bytes is its fields' bytes one after another. -/
theorem linkFormats : Obligations.LinkFormats := by
  refine ⟨⟨fun i e x named few => ?_, fun r => ?_⟩, fun r length => ?_, fun cmd seq sendable => ?_, fun g => ?_, rfl⟩
  · dsimp only
    rw [claimRecord_numbers]
    cases e with
    | free => cases named
    | fetching a p mark =>
      cases named
      rw [fetching_numbers]
      cases mark <;> rfl
    | held h =>
      cases named
      rw [held_numbers (few h rfl)]
      rfl
    | retiring r =>
      cases named
      rw [retiring_numbers]
      rfl
    | quarantined a k w =>
      cases named
      rw [quarantined_numbers]
      rfl
  · dsimp only
    rw [faultRecord_numbers]
    cases r.kind <;> cases r.access <;> rfl
  · obtain ⟨check, numbers, small, sum⟩ := checked_numbers r.status.code r.seq (payload := r.payload) (by omega)
    refine ⟨check, numbers.trans ?_, small, sum⟩
    cases r.status with
    | done => rfl
    | refused reason => cases reason <;> rfl
  · have length := payload_length sendable
    obtain ⟨check, numbers, small, sum⟩ := checked_numbers (Command.code cmd) seq (payload := Command.payload cmd) (by omega)
    refine ⟨check, numbers.trans ?_, small, sum⟩
    cases cmd with
    | claimRevoke slot addr ticket =>
      simp only [Command.payload, List.map_append, List.map_cons, List.map_nil, bytes24_toNat]
      rfl
    | timeSet divisor =>
      simp only [Command.payload, bytes16_toNat]
      rfl
    | mapLoad port count records => simp [Command.payload, Command.code]
    | _ => rfl
  · simp only [Segment.bytes, List.map_append, bytes16_toNat, bytes32_toNat]
    rfl

/-! ### Full queues (R112, R113, R118, R149, R150) -/

/-- The dropped count counts up to 255 and stays there. -/
theorem dropped_toNat (d : Byte) : (if d = 255 then 255 else d + 1 : Byte).toNat = min 255 (d.toNat + 1) := by
  by_cases full : d = 255
  · rw [if_pos full, full]
    rfl
  · have below : d.toNat ≠ 255 := fun same => full (BitVec.eq_of_toNat_eq same)
    have one : (1 : Byte).toNat = 1 := rfl
    rw [if_neg full, BitVec.toNat_add, one]
    omega

/-- Settles O54: the length decides whether there is room. -/
theorem arrivalAtFullLogOrQueueDrops : Obligations.ArrivalAtFullLogOrQueueDrops := by
  refine ⟨fun l r => ⟨fun room => ?_, fun full => ?_⟩, fun u n => ⟨fun room => if_pos room, fun full => if_neg (not_lt.2 full)⟩,
    fun s p => ?_⟩
  · rw [FaultLog.append, if_pos room]
    exact ⟨rfl, rfl⟩
  · rw [FaultLog.append, if_neg (not_lt.2 full)]
    exact ⟨rfl, dropped_toNat l.dropped⟩
  · simp [State.attention, NoticeUnit.attention]

end Sys2Proof.Machine
end
